-- ==== Sys2Proof/Word.lean ====
section
/-! DEFINITION. The word types of the block: cursor-wide words, bytes, command and response words
(spec/00_scope.md R6). The arithmetic over them (R9) stands in Machine/Arith.lean. -/

namespace Sys2Proof

/-- A 16-bit quantity: a cursor, a capacity, a mask, an offset, a count (R6: CURSOR_W, CAP_FIELD_W,
OFFSET_W, COUNT_W are 16). -/
abbrev Word := BitVec 16

/-- A data byte of 8 bits (R6, BYTE_W; the spec marks the 8 as general knowledge, D16; log 18). -/
abbrev Byte := BitVec 8

/-- A command word `cmd[31:0]`, bit 0 least significant (R8, R60). -/
abbrev CmdWord := BitVec 32

/-- A response word `rsp[31:0]` (R67). -/
abbrev RspWord := BitVec 32

end Sys2Proof
end

