-- ==== Sys2Proof/Config.lean ====
section
/-! DEFINITION. The free values of the block: constants without a body, so that nothing proved about
the model can rest on what they are. -/

namespace Sys2Proof

/-- `storage_init` (spec/10_state.md R26, 00_scope.md R6): what the platform left in each cell, by
index, fixed for the run. A FREE VALUE: the spec says it is any byte and must not be assumed zero
(93_implementation_defined.md U9; log 6). -/
opaque Config.storageInit : Nat → Byte

/-- What a register that hardware reset leaves unspecified holds after it (spec/70_reset_and_hazards.md
R150). A FREE VALUE, one per draw: the argument is the machine's counter `draws` (log 5). -/
opaque Config.resetWord : Nat → Word

end Sys2Proof
end

