-- ==== Sys2Proof/Machine/Arith.lean ====
section
/-! DEFINITION. The arithmetic primitives of the block, all on unsigned 16-bit values and all total
(spec/00_scope.md R9; spec/43_wraparound_and_fill_states.md R127). -/

namespace Sys2Proof.Machine

/-- `add16(a, b) = (a + b) mod 65536` (R9). -/
def add16 (a b : Word) : Word := a + b

/-- `sub16(a, b) = (a - b) mod 65536` (R9). -/
def sub16 (a b : Word) : Word := a - b

/-- `inc16(a) = add16(a, 1)`: 65535 goes to 0 (R9). -/
def inc16 (a : Word) : Word := add16 a 1

/-- `and16(a, b)`: bitwise AND (R9). -/
def and16 (a b : Word) : Word := a &&& b

/-- `ispow2(c)`: `c` is nonzero and is `2^k` for some `k` in 0 to 15 (R9). -/
def ispow2 (c : Word) : Bool := c != 0 && (List.range 16).any fun k => c == BitVec.ofNat 16 (2 ^ k)

/-- `zext_16(b)` of a byte (R8, R43). -/
def zext16 (b : Byte) : Word := b.setWidth 16

/-- A truth value as a result: 1 or 0 (30_encoding.md R68, D23). -/
def boolWord (b : Bool) : Word := if b then 1 else 0

end Sys2Proof.Machine
end

