-- ==== Sys2Proof/Syntax.lean ====
section
/-! DEFINITION. The ten commands of the block, one constructor per row of spec/opcode_table.json
(spec/30_encoding.md R64). An operand has exactly the width of its field (R63), so every term is a
command with in-range operands. -/

namespace Sys2Proof

/-- The commands (R64), operands in the order of the textual form (R70). A presence bit is true when
the reference is present (R63). -/
inductive Instr where
  /-- INIT: construct in place, Variant A (R80). -/
  | init (cp sp : Bool) (capacity : Word)
  /-- INITB: construct with an allocated control block, Variant B (R81). -/
  | initb (ap sp : Bool) (capacity : Word)
  /-- WRITE: append one byte (R90). -/
  | write (data : Byte)
  /-- READ: remove and return the oldest byte (R91). -/
  | read
  /-- PEEK: return the byte at an offset, removing nothing (R92). -/
  | peek (offset : Word)
  /-- RST: discard all unread bytes (R100). -/
  | rst
  /-- ISFULL (R101). -/
  | isfull
  /-- ISEMPTY (R102). -/
  | isempty
  /-- FILL (R103). -/
  | fill
  /-- FREE (R104). -/
  | free
  deriving DecidableEq, Repr

end Sys2Proof
end

