-- ==== Sys2Proof/Machine/State.lean ====
section
/-! DEFINITION. The state of the machine as plain data (spec/10_state.md R20), what it stops with, and
the state after reset (R32, spec/70_reset_and_hazards.md R150). -/

namespace Sys2Proof.Machine

/-- Why a step has no successor. -/
inductive Fault where
  /-- Raised by WRITE, READ and PEEK, through `memWrite` and `memRead`, when the index is not below the
  length of the bound array: the spec's own model fault (20_memory.md R46; log 10). SAFE: the machine
  stops where the spec gives no meaning. -/
  | storageOutOfRange
  deriving DecidableEq, Repr

/-- Why an instruction has no meaning. -/
inductive Refusal where
  /-- Raised by an arm of `exec` whose instruction has no meaning yet, and by nothing else; at present
  no arm raises it. SAFE: the machine stops. -/
  | notModelled (mnemonic : String)
  deriving DecidableEq, Repr

/-- What the host has still to present to the block (30_encoding.md R61; log 1). -/
inductive HostInput where
  /-- One command word, with the allocator's answer should the command ask for it (R81, R160). -/
  | command (word : CmdWord) (grant : Bool)
  /-- Hardware reset, between commands (70_reset_and_hazards.md R150, R162). -/
  | hardwareReset
  deriving DecidableEq, Repr

/-- What the block does on its storage and allocator ports (30_encoding.md R61; 20_memory.md R44). -/
inductive PortEvent where
  /-- `MemRead(idx, 1)`. -/
  | memRead (idx : Word)
  /-- `MemWrite(idx, 1, v)`. -/
  | memWrite (idx : Word) (v : Byte)
  /-- `alloc_req` raised by INITB (40_construction.md R81). -/
  | allocReq
  deriving DecidableEq, Repr

/-- The listed cells of the storage array, by strictly rising index: the cells written so far, or
given a content at launch. What an unlisted cell reads as is said once, by `readByte` of Machine/Ops.lean. -/
abbrev Memory := List Host.Cell

/-- Everything the spec gives the machine (R20), the ports that a step function needs as data (R61),
and one field of the model's own. -/
structure State where
  /-- 1 when a construction has succeeded since the last hardware reset (R21). -/
  configured : Bool
  /-- R22. -/
  capacity : Word
  /-- R23. -/
  capacityMask : Word
  /-- The logical position of the next byte to write (R24). -/
  writeCursor : Word
  /-- The logical position of the next byte to read (R25). -/
  readCursor : Word
  /-- The storage array's listed cells (R26; log 6). -/
  storage : Memory
  /-- STORAGE_LEN: the length of the array bound to the storage port (R46; log 7). -/
  storageLen : Nat
  /-- What the host has still to present, oldest first (R5, R49; log 1). -/
  inputs : List HostInput
  /-- `alloc_grant` during the command being executed (R61, R81; log 8). -/
  allocGrant : Bool
  /-- The response words presented, oldest first (R61, R67, R160; log 9). -/
  responses : List RspWord
  /-- The storage accesses and allocator requests made, oldest first (R44, R61; log 9). -/
  portLog : List PortEvent
  /-- The MODEL's own field: how many free register values have been drawn (log 5). -/
  draws : Nat
  deriving DecidableEq, Repr

/-- The machine right after reset: `configured` 0 (R150). The other four registers have no value in the
spec; the model names 0 for them (log 4). Nothing of the storage is listed (log 6), its length is the
whole index space of R40 (log 7), and nothing has been presented or answered (logs 1, 8, 9). -/
def State.reset : State where
  configured := false
  capacity := 0
  capacityMask := 0
  writeCursor := 0
  readCursor := 0
  storage := []
  storageLen := 32768
  inputs := []
  allocGrant := false
  responses := []
  portLog := []
  draws := 0

end Sys2Proof.Machine
end

