-- ==== Sys2Proof/Machine/Flags.lean ====
section
/-! DEFINITION. The derived quantities (spec/10_state.md R30) and the five classes of states
(spec/43_wraparound_and_fill_states.md R120). The block stores none of them. -/

namespace Sys2Proof.Machine

/-- `fill = sub16(write_cursor, read_cursor)` (R30). -/
def fill (s : State) : Word := sub16 s.writeCursor s.readCursor

/-- `free = sub16(capacity, fill)` (R30; in overrun the wrapped difference is decision D11; log 11). -/
def free (s : State) : Word := sub16 s.capacity (fill s)

/-- `full = (fill == capacity)`: equality, not order (R30, R101). -/
def full (s : State) : Bool := fill s == s.capacity

/-- `empty = (write_cursor == read_cursor)` (R30). -/
def empty (s : State) : Bool := s.writeCursor == s.readCursor

/-- `phys(p) = and16(p, capacity_mask)` (R30, R41). -/
def phys (s : State) (p : Word) : Word := and16 p s.capacityMask

/-- The five classes (R120), a way of reading the registers. -/
inductive FillClass where
  | unconfigured
  | empty
  | partialFill
  | full
  | overrun
  deriving DecidableEq, Repr

/-- The class of a state, by `configured`, `fill` and `capacity` (R120). -/
def fillClass (s : State) : FillClass :=
  if s.configured then
    if fill s = 0 then .empty
    else if (fill s).toNat < s.capacity.toNat then .partialFill
    else if fill s = s.capacity then .full
    else .overrun
  else .unconfigured

end Sys2Proof.Machine
end

