-- ==== Sys2Proof/Machine/Operands.lean ====
section
/-! DEFINITION. Operand forms: the argument check of the constructions (spec/40_construction.md R82)
and the three effective indices (spec/20_memory.md R41). -/

namespace Sys2Proof.Machine

/-- `args_ok(SP, c) = (SP == 1) and (c != 0) and ispow2(c)` (R82). -/
def argsOk (sp : Bool) (c : Word) : Bool := sp && c != 0 && ispow2 c

/-- The index of WRITE: `phys(write_cursor)`, before the increment (R41, R45). -/
def writeIndex (s : State) : Word := phys s s.writeCursor

/-- The index of READ: `phys(read_cursor)`, before the increment (R41, R45). -/
def readIndex (s : State) : Word := phys s s.readCursor

/-- The index of PEEK: `phys(add16(read_cursor, offset))` (R41). -/
def peekIndex (s : State) (offset : Word) : Word := phys s (add16 s.readCursor offset)

end Sys2Proof.Machine
end

