-- ==== Sys2Proof/Machine/Response.lean ====
section
/-! DEFINITION. Status codes and the response word (spec/30_encoding.md R67 to R69). -/

namespace Sys2Proof.Machine

/-- The five statuses a command can answer (R69). -/
inductive Status where
  | ok
  | invalidArguments
  | constructionFailed
  | illegalCommand
  | notConfigured
  deriving DecidableEq, Repr

/-- The code of a status, 0 to 4; 5 to 7 are never produced (R69). -/
def statusCode : Status → BitVec 3
  | .ok => 0
  | .invalidArguments => 1
  | .constructionFailed => 2
  | .illegalCommand => 3
  | .notConfigured => 4

/-- The response word: zero in 31:19, `status` in 18:16, `value` in 15:0 (R67). -/
def rspWord (st : Status) (value : Word) : RspWord :=
  (statusCode st).setWidth 32 <<< 16 ||| value.setWidth 32

/-- `rsp[18:16]` (R67). -/
def rspStatus (r : RspWord) : BitVec 3 := r.extractLsb' 16 3

/-- `rsp[15:0]` (R67). -/
def rspValue (r : RspWord) : Word := r.extractLsb' 0 16

/-- The byte that READ and PEEK return, in `rsp[7:0]` (R68). -/
def rspByte (r : RspWord) : Byte := r.extractLsb' 0 8

end Sys2Proof.Machine
end

