-- ==== Sys2Proof/Machine/Ops.lean ====
section
/-! DEFINITION. The named operations over registers, storage and ports, through which every meaning
reads and writes the state. -/

namespace Sys2Proof.Machine

/-! ### The storage as data -/

/-- The listed byte at an index, none for an unlisted cell. -/
def Memory.lookup : Memory → Nat → Option Byte
  | [], _ => none
  | c :: m, a => if c.1 = a then some c.2 else Memory.lookup m a

/-- List `v` at `a`, keeping the indices strictly rising. -/
def Memory.store : Memory → Nat → Byte → Memory
  | [], a, v => [(a, v)]
  | c :: m, a, v =>
    if a < c.1 then (a, v) :: c :: m
    else if a = c.1 then (a, v) :: m
    else c :: Memory.store m a v

/-- Canonical form: the indices are strictly rising. An unlisted cell reads as a free value, which no
listed byte can be compared with, so nothing more is asked (log 6). -/
def Memory.wf : Memory → Bool
  | [] => true
  | [_] => true
  | c :: d :: m => decide (c.1 < d.1) && Memory.wf (d :: m)

/-- THE READ OF ONE BYTE. A cell is readable whether written or not; one that nothing has listed holds
`storage_init` (R26; log 6). -/
def readByte (s : State) (a : Nat) : Byte := (s.storage.lookup a).getD (Config.storageInit a)

/-! ### Ports -/

/-- Add one event to the record of the storage and allocator ports (R61; log 9). -/
def logPort (e : PortEvent) (s : State) : State := { s with portLog := s.portLog ++ [e] }

/-- `respond(status, value)`: the one response word of the command (R10, R67). -/
def respond (st : Status) (value : Word) (s : State) : State :=
  { s with responses := s.responses ++ [rspWord st value] }

/-- `raise S`, written `respond(S, 0)`: no register and no storage byte changes (R10, R134). The block
has no traps (R130, R138): this is what stands in the place of taking an exception. -/
def raiseStatus (st : Status) (s : State) : State := respond st 0 s

/-- `MemRead(idx, 1)` (R44): the byte and the state after the access, or the spec's model fault for an
index outside the bound array (R46). Only the record of accesses changes. -/
def memRead (idx : Word) (s : State) : Except Fault (Byte × State) :=
  if idx.toNat < s.storageLen then .ok (readByte s idx.toNat, logPort (.memRead idx) s)
  else .error .storageOutOfRange

/-- `MemWrite(idx, 1, v)` (R44): the cell becomes `v`, every other cell is unchanged; or the spec's
model fault (R46). -/
def memWrite (idx : Word) (v : Byte) (s : State) : Except Fault State :=
  if idx.toNat < s.storageLen then
    .ok (logPort (.memWrite idx v) { s with storage := s.storage.store idx.toNat v })
  else .error .storageOutOfRange

/-- Raise `alloc_req` for this command (R81); the answer is `allocGrant` (log 8). -/
def requestAllocator (s : State) : State := logPort .allocReq s

/-! ### Registers -/

/-- What a successful construction writes: all five registers (R80, R81, R83). -/
def populate (c : Word) (s : State) : State :=
  { s with
    configured := true
    capacity := c
    capacityMask := sub16 c 1
    writeCursor := 0
    readCursor := 0 }

/-- `write_cursor <- inc16(write_cursor)` (R90). -/
def advanceWrite (s : State) : State := { s with writeCursor := inc16 s.writeCursor }

/-- `read_cursor <- inc16(read_cursor)` (R91). -/
def advanceRead (s : State) : State := { s with readCursor := inc16 s.readCursor }

/-- `read_cursor <- write_cursor` (R100). -/
def discardUnread (s : State) : State := { s with readCursor := s.writeCursor }

/-- Hardware reset (R150): `configured` becomes 0; the other four registers become unspecified, so each
takes a free value (log 5); no storage access and no response. -/
def hardwareReset (s : State) : State :=
  { s with
    configured := false
    capacity := Config.resetWord s.draws
    capacityMask := Config.resetWord (s.draws + 1)
    writeCursor := Config.resetWord (s.draws + 2)
    readCursor := Config.resetWord (s.draws + 3)
    draws := s.draws + 4 }

/-! ### Shapes shared by the meanings -/

/-- The outcome of every command of the block. -/
abbrev Result := Host.Outcome State Fault Refusal

/-- The command did its work: `respond(OK, value)`. -/
def answerOk (value : Word) (s : State) : Result := .next (respond .ok value s)

/-- The command cannot do its work: the status is all that happens (R134). -/
def answerStatus (st : Status) (s : State) : Result := .next (raiseStatus st s)

/-- The check of the eight commands that need a constructed buffer (R21, R131, R133): NOT_CONFIGURED and
no effect when `configured` is 0 (log 3). -/
def whenConfigured (s : State) (k : State → Result) : Result :=
  if s.configured then k s else answerStatus .notConfigured s

/-- READ's and PEEK's loading: one `MemRead`, then the rest of the command with the byte. -/
def withMemRead (idx : Word) (s : State) (k : Byte → State → Result) : Result :=
  match memRead idx s with
  | .ok (b, t) => k b t
  | .error f => .fault f

/-- WRITE's storing: one `MemWrite`, then the rest of the command. -/
def withMemWrite (idx : Word) (v : Byte) (s : State) (k : State → Result) : Result :=
  match memWrite idx v s with
  | .ok t => k t
  | .error f => .fault f

/-- The response to an illegal word, in every state, configured or not (R65, R133; log 2). -/
def answerIllegal (s : State) : Result := answerStatus .illegalCommand s

end Sys2Proof.Machine
end

