-- ==== Sys2Proof/Machine/Construction.lean ====
section
/-! DEFINITION. The construction commands INIT and INITB (spec/40_construction.md). -/

namespace Sys2Proof.Machine

/-- INIT (R80): the checks of the references and the capacity, one code for all four causes; then the
control block is populated, whether or not it was before (R83). -/
def execInit (cp sp : Bool) (c : Word) (s : State) : Result :=
  if cp && argsOk sp c then answerOk 0 (populate c s)
  else answerStatus .invalidArguments s

/-- INITB (R81): the allocator is asked only after the arguments have passed; every failure has the one
generic code; success populates the same control block as INIT (R83, D13). -/
def execInitb (ap sp : Bool) (c : Word) (s : State) : Result :=
  if ap && argsOk sp c then
    if s.allocGrant then answerOk 0 (populate c (requestAllocator s))
    else answerStatus .constructionFailed (requestAllocator s)
  else answerStatus .constructionFailed s

end Sys2Proof.Machine
end

