-- ==== Sys2Proof/Machine/Queries.lean ====
section
/-! DEFINITION. RST and the four queries (spec/42_reset_and_queries.md). None touches the storage; the
queries change no register. -/

namespace Sys2Proof.Machine

/-- RST (R100): the source's Reset() operation, not hardware reset (R151). -/
def execRst (s : State) : Result :=
  whenConfigured s fun s => answerOk 0 (discardUnread s)

/-- ISFULL (R101). -/
def execIsfull (s : State) : Result :=
  whenConfigured s fun s => answerOk (boolWord (full s)) s

/-- ISEMPTY (R102). -/
def execIsempty (s : State) : Result :=
  whenConfigured s fun s => answerOk (boolWord (empty s)) s

/-- FILL (R103): one subtraction, no case split. -/
def execFill (s : State) : Result :=
  whenConfigured s fun s => answerOk (fill s) s

/-- FREE (R104). -/
def execFree (s : State) : Result :=
  whenConfigured s fun s => answerOk (free s) s

end Sys2Proof.Machine
end

