-- ==== Sys2Proof/Machine/Transfer.lean ====
section
/-! DEFINITION. The data transfer commands WRITE, READ and PEEK (spec/41_data_transfer.md). None of them
looks at the fill state (R132). -/

namespace Sys2Proof.Machine

/-- WRITE (R90): store at `phys(write_cursor)`, then advance the cursor (R45). Full is no error. -/
def execWrite (data : Byte) (s : State) : Result :=
  whenConfigured s fun s =>
    withMemWrite (writeIndex s) data s fun t => answerOk 0 (advanceWrite t)

/-- READ (R91): load from `phys(read_cursor)`, then advance the cursor (R45). Empty is no error. -/
def execRead (s : State) : Result :=
  whenConfigured s fun s =>
    withMemRead (readIndex s) s fun b t => answerOk (zext16 b) (advanceRead t)

/-- PEEK (R92): load from `phys(add16(read_cursor, offset))`, changing no register. -/
def execPeek (offset : Word) (s : State) : Result :=
  whenConfigured s fun s =>
    withMemRead (peekIndex s offset) s fun b t => answerOk (zext16 b) t

end Sys2Proof.Machine
end

