-- ==== Sys2Proof/Machine/Dispatch.lean ====
section
/-! DEFINITION. What each command does: one arm per constructor, one call of its meaning. -/

namespace Sys2Proof.Machine

def exec (i : Instr) (s : State) : Host.Outcome State Fault Refusal :=
  match i with
  | .init cp sp capacity => Sys2Proof.Machine.execInit cp sp capacity s
  | .initb ap sp capacity => Sys2Proof.Machine.execInitb ap sp capacity s
  | .write data => Sys2Proof.Machine.execWrite data s
  | .read => Sys2Proof.Machine.execRead s
  | .peek offset => Sys2Proof.Machine.execPeek offset s
  | .rst => Sys2Proof.Machine.execRst s
  | .isfull => Sys2Proof.Machine.execIsfull s
  | .isempty => Sys2Proof.Machine.execIsempty s
  | .fill => Sys2Proof.Machine.execFill s
  | .free => Sys2Proof.Machine.execFree s

end Sys2Proof.Machine
end

