-- ==== Sys2Proof/WellFormed.lean ====
section
/-! DEFINITION. The textual form of commands (spec/30_encoding.md R70, R71) as syntax over natural
numbers, and the check of its operand ranges. A term of `Instr` needs no check of its own: its
operands have their fields' widths (R63). The check of a command WORD is `legalWord` of Decode.lean. -/

namespace Sys2Proof

/-- One line of the textual form, its numbers as written (R70), and the two shorthands (R71). -/
inductive AsmLine where
  | init (cp sp cap : Nat)
  | initb (ap sp cap : Nat)
  | write (data : Nat)
  | read
  | peek (offset : Nat)
  | rst
  | isfull
  | isempty
  | fill
  | free
  /-- The shorthand `INIT <cap>` (R71). -/
  | initShort (cap : Nat)
  /-- The shorthand `INITB <cap>` (R71). -/
  | initbShort (cap : Nat)
  deriving DecidableEq, Repr

/-- A presence bit is written 0 or 1 (R70). -/
def presenceInRange (n : Nat) : Bool := n ≤ 1

/-- A capacity or an offset is written 0 to 65535 (R70). -/
def wordInRange (n : Nat) : Bool := n ≤ 65535

/-- A data byte is written 0 to 255 (R70). -/
def byteInRange (n : Nat) : Bool := n ≤ 255

/-- Every operand of the line is inside its range; outside it is an assembly error (R70). -/
def AsmLine.wellFormed : AsmLine → Bool
  | .init cp sp cap => presenceInRange cp && presenceInRange sp && wordInRange cap
  | .initb ap sp cap => presenceInRange ap && presenceInRange sp && wordInRange cap
  | .write data => byteInRange data
  | .read => true
  | .peek offset => wordInRange offset
  | .rst => true
  | .isfull => true
  | .isempty => true
  | .fill => true
  | .free => true
  | .initShort cap => wordInRange cap
  | .initbShort cap => wordInRange cap

end Sys2Proof
end

