-- ==== Sys2Proof/Decode.lean ====
section
/-! DEFINITION. Command words: the decoder, total on every 32-bit word and rejecting by name, the
encoder, the opcode map as a table of match and mask, and the assembler
(spec/30_encoding.md R60 to R66, R70 to R72). -/

namespace Sys2Proof

/-- Why a word is illegal (R65). The response does not tell the two apart (R131). -/
inductive Illegal where
  /-- `op` is 0x0 or 0xB to 0xF. -/
  | unassignedOpcode
  /-- `op` names a command and a bit its format marks 0 is one. -/
  | strayBit
  deriving DecidableEq, Repr

/-- `cmd[31:28]` (R60). -/
def opField (w : CmdWord) : BitVec 4 := w.extractLsb' 28 4

/-- `cmd[27]`, `cmd[26]` and the other single bits (R8). -/
def bitField (w : CmdWord) (i : Nat) : Bool := w.getLsbD i

/-- `cmd[15:0]`: capacity and offset (R63). -/
def wordField (w : CmdWord) : Word := w.extractLsb' 0 16

/-- `cmd[7:0]`: data (R63). -/
def byteField (w : CmdWord) : Byte := w.extractLsb' 0 8

/-- One row's test, `(w & mask) == match`, once its opcode is known (R72). -/
def decodeRow (w fixed mask : CmdWord) (i : Instr) : Except Illegal Instr :=
  if w &&& mask = fixed then .ok i else .error .strayBit

/-- The decoder (R72): the opcode picks the row of R64, the row's fixed bits are compared, the
operands are taken from their fields (R63). -/
def decode (w : CmdWord) : Except Illegal Instr :=
  match (opField w).toNat with
  | 0x1 => decodeRow w 0x10000000 0xFCFF0000 (.init (bitField w 24) (bitField w 25) (wordField w))
  | 0x2 => decodeRow w 0x20000000 0xF9FF0000 (.initb (bitField w 26) (bitField w 25) (wordField w))
  | 0x3 => decodeRow w 0x30000000 0xFFFFFF00 (.write (byteField w))
  | 0x4 => decodeRow w 0x40000000 0xFFFFFFFF .read
  | 0x5 => decodeRow w 0x50000000 0xFFFF0000 (.peek (wordField w))
  | 0x6 => decodeRow w 0x60000000 0xFFFFFFFF .rst
  | 0x7 => decodeRow w 0x70000000 0xFFFFFFFF .isfull
  | 0x8 => decodeRow w 0x80000000 0xFFFFFFFF .isempty
  | 0x9 => decodeRow w 0x90000000 0xFFFFFFFF .fill
  | 0xA => decodeRow w 0xA0000000 0xFFFFFFFF .free
  | _ => .error .unassignedOpcode

/-- A field value at its place in the word, its lowest bit at bit `lo` (R8, R62). -/
def place {n : Nat} (v : BitVec n) (lo : Nat) : CmdWord := v.setWidth 32 <<< lo

/-- The encoder, `match | (operands placed in their fields)` (R72, R62): `CP` at bit 24, `SP` at 25, `AP`
at 26, capacity and offset at 15:0, data at 7:0. INIT has `AP` zero and INITB has `CP` zero. -/
def encode : Instr → CmdWord
  | .init cp sp capacity =>
      0x10000000 ||| place (BitVec.ofBool cp) 24 ||| place (BitVec.ofBool sp) 25 ||| place capacity 0
  | .initb ap sp capacity =>
      0x20000000 ||| place (BitVec.ofBool ap) 26 ||| place (BitVec.ofBool sp) 25 ||| place capacity 0
  | .write data => 0x30000000 ||| place data 0
  | .read => 0x40000000
  | .peek offset => 0x50000000 ||| place offset 0
  | .rst => 0x60000000
  | .isfull => 0x70000000
  | .isempty => 0x80000000
  | .fill => 0x90000000
  | .free => 0xA0000000

/-- The mnemonic of a command in the opcode map (R64). -/
def mnemonicOf : Instr → String
  | .init _ _ _ => "INIT"
  | .initb _ _ _ => "INITB"
  | .write _ => "WRITE"
  | .read => "READ"
  | .peek _ => "PEEK"
  | .rst => "RST"
  | .isfull => "ISFULL"
  | .isempty => "ISEMPTY"
  | .fill => "FILL"
  | .free => "FREE"

/-- One row of the opcode map (R64): a word is the command exactly when `(w & mask) == fixed`. -/
structure OpcodeRow where
  mnemonic : String
  fixed : CmdWord
  mask : CmdWord
  deriving DecidableEq, Repr

/-- The opcode map (R64), in the order of spec/opcode_table.json. -/
def opcodeTable : List OpcodeRow :=
  [ ⟨"INIT",    0x10000000, 0xFCFF0000⟩,
    ⟨"INITB",   0x20000000, 0xF9FF0000⟩,
    ⟨"WRITE",   0x30000000, 0xFFFFFF00⟩,
    ⟨"READ",    0x40000000, 0xFFFFFFFF⟩,
    ⟨"PEEK",    0x50000000, 0xFFFF0000⟩,
    ⟨"RST",     0x60000000, 0xFFFFFFFF⟩,
    ⟨"ISFULL",  0x70000000, 0xFFFFFFFF⟩,
    ⟨"ISEMPTY", 0x80000000, 0xFFFFFFFF⟩,
    ⟨"FILL",    0x90000000, 0xFFFFFFFF⟩,
    ⟨"FREE",    0xA0000000, 0xFFFFFFFF⟩ ]

/-- The word is this row's command (R64). -/
def OpcodeRow.accepts (r : OpcodeRow) (w : CmdWord) : Bool := w &&& r.mask == r.fixed

/-- The word is one of the ten commands; otherwise it is illegal (R65). -/
def legalWord (w : CmdWord) : Bool := opcodeTable.any (·.accepts w)

/-- A presence bit as written, once in range (R70). -/
def presenceBit (n : Nat) : Bool := n == 1

/-- The command a line of the textual form stands for, none for an assembly error (R70); the two
shorthands expand to one command each (R71). -/
def assemble (l : AsmLine) : Option Instr :=
  if l.wellFormed then
    match l with
    | .init cp sp cap => some (.init (presenceBit cp) (presenceBit sp) (BitVec.ofNat 16 cap))
    | .initb ap sp cap => some (.initb (presenceBit ap) (presenceBit sp) (BitVec.ofNat 16 cap))
    | .write data => some (.write (BitVec.ofNat 8 data))
    | .read => some .read
    | .peek offset => some (.peek (BitVec.ofNat 16 offset))
    | .rst => some .rst
    | .isfull => some .isfull
    | .isempty => some .isempty
    | .fill => some .fill
    | .free => some .free
    | .initShort cap => some (.init true true (BitVec.ofNat 16 cap))
    | .initbShort cap => some (.initb true true (BitVec.ofNat 16 cap))
  else none

/-- The command word whose low `nbits` bits are those of `w` and whose other bits are 0. A command is
one 32-bit word (R60), so table numbering and word numbering are the same. -/
def tableWord (nbits w : Nat) : CmdWord := BitVec.ofNat 32 (w % 2 ^ nbits)

/-- What the decoder reads from an instruction with the bits `w`, none where it refuses. -/
def decodeTableWord (nbits w : Nat) : Option Instr :=
  match decode (tableWord nbits w) with
  | .ok i => some i
  | .error _ => none

end Sys2Proof
end

