-- ==== Sys2Proof/Machine/Fetch.lean ====
section
/-! DEFINITION. Accepting the host's next input (spec/30_encoding.md R61, spec/20_memory.md R49) and
placing one there. The block fetches no instructions from a memory (spec/10_state.md R29). -/

namespace Sys2Proof.Machine

/-- What the machine finds at its inputs, with the state after accepting it. -/
inductive Accepted where
  /-- Nothing is presented. -/
  | idle
  /-- Hardware reset, applied between commands (R162). -/
  | reset (s : State)
  /-- A word that is no command (R65). -/
  | illegal (s : State)
  /-- A command. -/
  | command (i : Instr) (s : State)
  deriving DecidableEq, Repr

/-- The state with the oldest input taken and the allocator's answer to it on the line (R61; log 8). -/
def acceptInput (rest : List HostInput) (grant : Bool) (s : State) : State :=
  { s with inputs := rest, allocGrant := grant }

/-- Accept the oldest input and decode it; decoding comes before every other check (R133). -/
def accept (s : State) : Accepted :=
  match s.inputs with
  | [] => .idle
  | .hardwareReset :: rest => .reset (acceptInput rest s.allocGrant s)
  | .command w g :: rest =>
    match decode w with
    | .ok i => .command i (acceptInput rest g s)
    | .error _ => .illegal (acceptInput rest g s)

/-- Present a command word ahead of every other input, the allocator's line as it stands. -/
def presentWord (w : CmdWord) (s : State) : State :=
  { s with inputs := .command w s.allocGrant :: s.inputs }

end Sys2Proof.Machine
end

