-- ==== Sys2Proof/Machine/Step.lean ====
section
/-! DEFINITION. One step: the oldest input is accepted and executed as one atomic transition
(spec/00_scope.md R5, spec/20_memory.md R45, R49; log 1). -/

namespace Sys2Proof.Machine

/-- One step of the machine. With nothing presented the block is idle and its state does not change
(70_reset_and_hazards.md R160). -/
def step (s : State) : Host.Outcome State Fault Refusal :=
  match accept s with
  | .idle => .next s
  | .reset t => .next (hardwareReset t)
  | .illegal t => answerIllegal t
  | .command i t => exec i t

/-- `s` with the instruction whose bits are `w` presented as the very next command (log 19). -/
def State.withFetchWord (s : State) (nbits w : Nat) : State := presentWord (tableWord nbits w) s

end Sys2Proof.Machine
end

