-- ==== Sys2Proof/Safety.lean ====
section
/-! DEFINITION. The terms claims are stated in: the invariant, the contracts the host keeps, runs of
commands, the unread bytes as a queue, and what of a state can be observed. -/

namespace Sys2Proof

open Sys2Proof.Machine

/-! ### The invariant -/

/-- The index of a storage access is below `n`; a request of the allocator has none. -/
def indexBelow (n : Nat) : PortEvent → Prop
  | .memRead idx => idx.toNat < n
  | .memWrite idx _ => idx.toNat < n
  | .allocReq => True

/-- The storage is in canonical form and lists only cells of the bound array (spec/10_state.md R26). -/
def StorageOk (s : State) : Prop :=
  s.storage.wf = true ∧ ∀ c ∈ s.storage, c.1 < s.storageLen

/-- A configured block holds a power of two from 1 to 32768 as its capacity, and the mask one below it
(R22, R23, R31). -/
def ControlBlockOk (s : State) : Prop :=
  s.configured = true →
    (∃ k, k < 16 ∧ s.capacity.toNat = 2 ^ k) ∧ s.capacityMask.toNat = s.capacity.toNat - 1

/-- A response word as the spec allows it: bits 31:19 zero, one of the statuses 0 to 4, value 0 with a
status other than OK (30_encoding.md R67 to R69). -/
def ResponseOk (r : RspWord) : Prop :=
  r.toNat < 2 ^ 19 ∧ (rspStatus r).toNat ≤ 4 ∧ (rspStatus r ≠ 0 → rspValue r = 0)

/-- What every step keeps: canonical storage, a legal control block, legal responses, and only indices
that the 15-bit storage port can carry (R40). -/
def Invariant (s : State) : Prop :=
  StorageOk s ∧ ControlBlockOk s ∧ (∀ r ∈ s.responses, ResponseOk r) ∧
    ∀ e ∈ s.portLog, indexBelow 32768 e

/-! ### What the platform and the host keep -/

/-- `STORAGE_LEN >= capacity`, the platform's duty (20_memory.md R46). -/
def StorageCovers (s : State) : Prop := s.capacity.toNat ≤ s.storageLen

/-- The contract of one command: WRITE only in EMPTY or PARTIAL, READ only in PARTIAL or FULL
(43_wraparound_and_fill_states.md R122). -/
def contractKept (i : Instr) (s : State) : Prop :=
  match i with
  | .write _ => fillClass s = .empty ∨ fillClass s = .partialFill
  | .read => fillClass s = .partialFill ∨ fillClass s = .full
  | _ => True

/-- INIT or INITB. -/
def isConstruction : Instr → Bool
  | .init _ _ _ => true
  | .initb _ _ _ => true
  | _ => false

/-- WRITE or READ. -/
def isTransfer : Instr → Bool
  | .write _ => true
  | .read => true
  | _ => false

/-! ### Runs of commands -/

/-- The commands executed one after another, stopping at the first fault or refusal (R49, R160). -/
def runCommands : List Instr → State → Result
  | [], s => .next s
  | i :: cmds, s =>
    match exec i s with
    | .next t => runCommands cmds t
    | .fault f => .fault f
    | .refused r => .refused r

/-- The host keeps the contracts at every command of a run. -/
def contractRun : List Instr → State → Prop
  | [], _ => True
  | i :: cmds, s => contractKept i s ∧ ∀ t, exec i s = .next t → contractRun cmds t

/-- The bytes of the WRITEs, in order. -/
def writtenBytes : List Instr → List Byte
  | [] => []
  | .write d :: cmds => d :: writtenBytes cmds
  | _ :: cmds => writtenBytes cmds

/-- The bytes that the READs answered, in order: commands beside their responses. -/
def readBytes : List Instr → List RspWord → List Byte
  | .read :: cmds, r :: rs => rspByte r :: readBytes cmds rs
  | _ :: cmds, _ :: rs => readBytes cmds rs
  | _, _ => []

/-- One WRITE and one READ for each byte. -/
def writeReadPairs : List Byte → List Instr
  | [] => []
  | d :: ds => .write d :: .read :: writeReadPairs ds

/-! ### The unread bytes -/

/-- The unread bytes, oldest first: logical positions `read_cursor` up to but not including
`write_cursor` (R117). -/
def unread (s : State) : List Byte :=
  (List.range (fill s).toNat).map fun k =>
    readByte s (phys s (s.readCursor + BitVec.ofNat 16 k)).toNat

/-! ### What can be observed -/

/-- Two states with the same future inputs, the same storage and, when configured, the same `capacity`,
`fill` and `phys(read_cursor)` (R123); an unconfigured block's registers are not compared (R32). -/
def SameView (s t : State) : Prop :=
  s.inputs = t.inputs ∧ s.storageLen = t.storageLen ∧ (∀ a, readByte s a = readByte t a) ∧
    s.configured = t.configured ∧ ControlBlockOk s ∧ ControlBlockOk t ∧
    (s.configured = true →
      s.capacity = t.capacity ∧ fill s = fill t ∧ readIndex s = readIndex t)

/-- Two outcomes that an observer of the ports cannot tell apart, from `s` and from `t`: both stop for the
same reason, or both go on with the same new responses and port events to states of the same view. -/
def SameAnswer (s t : State) : Result → Result → Prop
  | .next s', .next t' =>
    (∃ rs, s'.responses = s.responses ++ rs ∧ t'.responses = t.responses ++ rs) ∧
      (∃ es, s'.portLog = s.portLog ++ es ∧ t'.portLog = t.portLog ++ es) ∧ SameView s' t'
  | .fault f, .fault g => f = g
  | .refused r, .refused q => r = q
  | _, _ => False

end Sys2Proof
end

