-- ==== Sys2Proof/Certificates/Slice0/Obligations.lean ====
section
/-! DEFINITION. The statements for the provers. Each formalises the rule of spec/ that its docstring
cites; OBLIGATIONS.json lists them in this order. -/

open Sys2Proof Sys2Proof.Machine

/-! ### Encoding -/

/-- Decoding an encoded command gives it back, every operand at every value: the round trip that
30_encoding.md section 2 (rule R72) infers from R62 to R64. -/
def Obligations.DecodeInvertsEncode : Prop :=
  ∀ i : Instr, decode (encode i) = .ok i

/-- Encoding a decoded word gives it back: the other round trip that 30_encoding.md section 2 (rule R72)
infers from R62 to R64. -/
def Obligations.EncodeInvertsDecode : Prop :=
  ∀ (w : CmdWord) (i : Instr), decode w = .ok i → encode i = w

/-- R64: a word is a row's command exactly when `(w & mask) == match`. -/
def Obligations.RowAcceptsExactlyItsCommand : Prop :=
  ∀ r ∈ opcodeTable, ∀ w : CmdWord,
    w &&& r.mask = r.fixed ↔ ∃ i, decode w = .ok i ∧ mnemonicOf i = r.mnemonic

/-- R62, R65: a word is refused exactly when its opcode is unassigned or a bit that its format marks 0 is
one. -/
def Obligations.RefusedWordsAreUnassignedOrStray : Prop :=
  ∀ w : CmdWord, (∃ e, decode w = .error e) ↔
    w.extractLsb' 28 4 = 0x0 ∨ 0xB ≤ (w.extractLsb' 28 4).toNat ∨
    (w.extractLsb' 28 4 ∈ [0x4, 0x6, 0x7, 0x8, 0x9, 0xA] ∧ w.extractLsb' 0 28 ≠ 0) ∨
    (w.extractLsb' 28 4 = 0x3 ∧ w.extractLsb' 8 20 ≠ 0) ∨
    (w.extractLsb' 28 4 = 0x5 ∧ w.extractLsb' 16 12 ≠ 0) ∨
    (w.extractLsb' 28 4 = 0x1 ∧
      (w.getLsbD 27 = true ∨ w.getLsbD 26 = true ∨ w.extractLsb' 16 8 ≠ 0)) ∨
    (w.extractLsb' 28 4 = 0x2 ∧
      (w.getLsbD 27 = true ∨ w.getLsbD 24 = true ∨ w.extractLsb' 16 8 ≠ 0))

/-- R63: every operand is its field, taken at its own width. -/
def Obligations.OperandsAreTheirFields : Prop :=
  ∀ (w : CmdWord) (i : Instr), decode w = .ok i →
    match i with
    | .init cp sp c => cp = w.getLsbD 24 ∧ sp = w.getLsbD 25 ∧ c.toNat = w.toNat % 65536
    | .initb ap sp c => ap = w.getLsbD 26 ∧ sp = w.getLsbD 25 ∧ c.toNat = w.toNat % 65536
    | .write d => d.toNat = w.toNat % 256
    | .peek o => o.toNat = w.toNat % 65536
    | _ => True

/-- R64: the ten match and mask pairs are pairwise disjoint. -/
def Obligations.OpcodeRowsAreDisjoint : Prop :=
  ∀ r ∈ opcodeTable, ∀ q ∈ opcodeTable, ∀ w : CmdWord,
    w &&& r.mask = r.fixed → w &&& q.mask = q.fixed → r = q

/-- Words written out from the formats of R62 decode to their commands (95_test_vectors.md T-E1, T-E7,
T-E12, T-E16, T-E20, T-E22, T-E24, T-E26, T-E28, T-E30; illegal: T-E4, T-E9, T-E14, T-E17, T-E32, T-E34).
-/
def Obligations.SampleWordsDecode : Prop :=
  decode 0x13000004 = .ok (.init true true 4) ∧ decode 0x26000008 = .ok (.initb true true 8) ∧
  decode 0x30000041 = .ok (.write 0x41) ∧ decode 0x40000000 = .ok .read ∧
  decode 0x5000FFFF = .ok (.peek 65535) ∧ decode 0x60000000 = .ok .rst ∧
  decode 0x70000000 = .ok .isfull ∧ decode 0x80000000 = .ok .isempty ∧
  decode 0x90000000 = .ok .fill ∧ decode 0xA0000000 = .ok .free ∧
  decode 0x14000004 = .error .strayBit ∧ decode 0x21000008 = .error .strayBit ∧
  decode 0x30000100 = .error .strayBit ∧ decode 0x40000001 = .error .strayBit ∧
  decode 0x00000000 = .error .unassignedOpcode ∧ decode 0xB0000000 = .error .unassignedOpcode

/-- R71: the two shorthands expand to one command each, their presence bits 1. -/
def Obligations.ShorthandsExpand : Prop :=
  ∀ cap : Nat,
    assemble (.initShort cap) = assemble (.init 1 1 cap) ∧
    assemble (.initbShort cap) = assemble (.initb 1 1 cap) ∧
    (cap ≤ 65535 →
      assemble (.initShort cap) = some (.init true true (BitVec.ofNat 16 cap)) ∧
      assemble (.initbShort cap) = some (.initb true true (BitVec.ofNat 16 cap)))

/-! ### Steps -/

/-- R5, R49, R133: a step takes the oldest command word, puts the allocator's answer on its line and,
when the word decodes, executes the command; a word presented by `withFetchWord` is the next one. -/
def Obligations.StepRunsTheDecodedCommand : Prop :=
  (∀ (s : State) (w : CmdWord) (g : Bool) (rest : List HostInput) (i : Instr),
    s.inputs = .command w g :: rest → decode w = .ok i →
      step s = exec i { s with inputs := rest, allocGrant := g }) ∧
  ∀ (s : State) (nbits w : Nat) (i : Instr), decodeTableWord nbits w = some i →
    step (s.withFetchWord nbits w) = exec i s

/-- R65, in hardware's form: a word that matches no row changes no register, makes no storage access and
no allocator request and gets the response ILLEGAL_COMMAND, configured or not. R65 leaves a model the
choice of a fault; that the step answers instead is the model's choice (log 2). -/
def Obligations.IllegalWordAnswersIllegalCommand : Prop :=
  ∀ (s : State) (w : CmdWord) (g : Bool) (rest : List HostInput),
    s.inputs = .command w g :: rest → (∀ r ∈ opcodeTable, w &&& r.mask ≠ r.fixed) →
      step s = .next { s with
        inputs := rest
        allocGrant := g
        responses := s.responses ++ [0x00030000] }

/-- R160: with nothing presented the block is idle and its state does not change (the form of the idle
step is the model's, log 1). -/
def Obligations.IdleBlockKeepsItsState : Prop :=
  ∀ s : State, s.inputs = [] → step s = .next s

/-- R150, R32: hardware reset clears `configured`, touches no storage cell, answers nothing and makes no
access; nothing is said of the four registers that become unspecified. That the inputs still pending, the
responses recorded and the port events recorded survive it is the model's choice, on which R150 is silent
(log 21). -/
def Obligations.HardwareResetUnconfigures : Prop :=
  ∀ (s : State) (rest : List HostInput), s.inputs = .hardwareReset :: rest →
    ∃ t, step s = .next t ∧ t.configured = false ∧ t.storage = s.storage ∧
      t.storageLen = s.storageLen ∧ t.inputs = rest ∧ t.responses = s.responses ∧
      t.portLog = s.portLog ∧ fillClass t = .unconfigured

/-- R32, R150: after reset the block is unconfigured; nothing of the storage has been written and nothing
answered (that the storage, the inputs and the records start empty is the model's choice, logs 1, 6, 9).
-/
def Obligations.ResetLeavesTheBlockUnconfigured : Prop :=
  State.reset.configured = false ∧ fillClass State.reset = .unconfigured ∧
    State.reset.storage = [] ∧ State.reset.inputs = [] ∧ State.reset.responses = [] ∧ State.reset.portLog = []

/-- The invariant of the model holds after reset. -/
def Obligations.ResetMeetsTheInvariant : Prop :=
  Invariant State.reset

/-- Every step keeps the invariant, from every state that meets it: canonical storage inside the bound
array, a legal control block (10_state.md section 5, R31 (i) and (ii), an inference of the spec), legal
responses (R67 to R69), indices that fit the storage port (R40). The canonical form is the model's (log
6). -/
def Obligations.StepKeepsTheInvariant : Prop :=
  ∀ s t : State, Invariant s → step s = .next t → Invariant t

/-- R67, with R46's model fault excepted: every accepted command word, legal or not, produces exactly one
response word, bits 31:19 zero, unless it is a WRITE, READ or PEEK on a configured block with an index
outside the bound array, whose step is the fault of R46. With it: a status of 0 to 4 (R69), and value 0
when the status is not OK (R68). That an illegal word is answered by a next state, where R65 lets a model
fault, is the model's choice (log 2). -/
def Obligations.OneResponsePerCommandWord : Prop :=
  ∀ (s : State) (w : CmdWord) (g : Bool) (rest : List HostInput),
    s.inputs = .command w g :: rest →
      (step s = .fault .storageOutOfRange ∧ s.configured = true ∧
        ((∃ d, decode w = .ok (.write d) ∧
            s.storageLen ≤ (s.writeCursor &&& s.capacityMask).toNat) ∨
         (decode w = .ok .read ∧ s.storageLen ≤ (s.readCursor &&& s.capacityMask).toNat) ∨
         ∃ o, decode w = .ok (.peek o) ∧
            s.storageLen ≤ ((s.readCursor + o) &&& s.capacityMask).toNat)) ∨
      ∃ t r, step s = .next t ∧ t.inputs = rest ∧ t.responses = s.responses ++ [r] ∧
        r.extractLsb' 19 13 = 0 ∧ (r.extractLsb' 16 3).toNat ≤ 4 ∧
        (r.extractLsb' 16 3 ≠ 0 → r.extractLsb' 0 16 = 0)

/-! ### Construction -/

/-- The power-of-two test of R9 equals the test of the lowest set bit: an inference that 00_scope.md
section 5 marks as derived. -/
def Obligations.PowerOfTwoTestByLowestBit : Prop :=
  ∀ c : Word, ispow2 c = true ↔ c ≠ 0 ∧ c &&& (c - 1) = 0

/-- R82: the argument check passes exactly for a present storage and one of sixteen capacities. -/
def Obligations.ArgumentCheckPassesSixteenCapacities : Prop :=
  ∀ (sp : Bool) (c : Word), argsOk sp c = true ↔
    sp = true ∧ c.toNat ∈ [1, 2, 4, 8, 16, 32, 64, 128, 256, 512, 1024, 2048, 4096, 8192, 16384, 32768]

/-- R80: INIT's encoding; with both references and a power of two it writes all five registers, from any
state (R83); otherwise it answers INVALID_ARGUMENTS and changes nothing else (the spec's decision D12;
log 12). -/
def Obligations.InitConstructsOrRejects : Prop :=
  (∀ w : CmdWord, w.extractLsb' 28 4 = 0x1 → decode w =
    if w &&& 0xFCFF0000 = 0x10000000 then
      .ok (.init (w.getLsbD 24) (w.getLsbD 25) (w.extractLsb' 0 16))
    else .error .strayBit) ∧
  (∀ (s : State) (k : Nat), k < 16 →
    exec (.init true true (BitVec.ofNat 16 (2 ^ k))) s = .next { s with
      configured := true
      capacity := BitVec.ofNat 16 (2 ^ k)
      capacityMask := BitVec.ofNat 16 (2 ^ k - 1)
      writeCursor := 0
      readCursor := 0
      responses := s.responses ++ [0x00000000] }) ∧
  ∀ (s : State) (cp sp : Bool) (c : Word),
    (cp = false ∨ sp = false ∨ ∀ k, k < 16 → c.toNat ≠ 2 ^ k) →
      exec (.init cp sp c) s = .next { s with responses := s.responses ++ [0x00010000] }

/-- R81: INITB's encoding; it asks the allocator once its arguments have passed, and constructs when
granted; a refusal or bad arguments answer the one generic code; bad arguments raise no request. -/
def Obligations.InitbConstructsOrFails : Prop :=
  (∀ w : CmdWord, w.extractLsb' 28 4 = 0x2 → decode w =
    if w &&& 0xF9FF0000 = 0x20000000 then
      .ok (.initb (w.getLsbD 26) (w.getLsbD 25) (w.extractLsb' 0 16))
    else .error .strayBit) ∧
  (∀ (s : State) (k : Nat), k < 16 → s.allocGrant = true →
    exec (.initb true true (BitVec.ofNat 16 (2 ^ k))) s = .next { s with
      configured := true
      capacity := BitVec.ofNat 16 (2 ^ k)
      capacityMask := BitVec.ofNat 16 (2 ^ k - 1)
      writeCursor := 0
      readCursor := 0
      responses := s.responses ++ [0x00000000]
      portLog := s.portLog ++ [.allocReq] }) ∧
  (∀ (s : State) (k : Nat), k < 16 → s.allocGrant = false →
    exec (.initb true true (BitVec.ofNat 16 (2 ^ k))) s = .next { s with
      responses := s.responses ++ [0x00020000]
      portLog := s.portLog ++ [.allocReq] }) ∧
  ∀ (s : State) (ap sp : Bool) (c : Word),
    (ap = false ∨ sp = false ∨ ∀ k, k < 16 → c.toNat ≠ 2 ^ k) →
      exec (.initb ap sp c) s = .next { s with responses := s.responses ++ [0x00020000] }

/-! ### Data transfer -/

/-- R90: WRITE's encoding; it stores the byte at `write_cursor & capacity_mask`, every other byte of the
storage keeping its value, then increments `write_cursor`; it answers NOT_CONFIGURED without effect
before a construction, and has no successor for an index outside the array (R46). Being full is not
looked at. -/
def Obligations.WriteStoresThenAdvances : Prop :=
  (∀ w : CmdWord, w.extractLsb' 28 4 = 0x3 → decode w =
    if w &&& 0xFFFFFF00 = 0x30000000 then .ok (.write (w.extractLsb' 0 8)) else .error .strayBit) ∧
  ∀ (s : State) (d : Byte),
    (s.configured = true → (s.writeCursor &&& s.capacityMask).toNat < s.storageLen →
      ∃ m : Memory,
        exec (.write d) s = .next { s with
          storage := m
          writeCursor := BitVec.ofNat 16 (s.writeCursor.toNat + 1)
          responses := s.responses ++ [0x00000000]
          portLog := s.portLog ++ [.memWrite (s.writeCursor &&& s.capacityMask) d] } ∧
        ∀ a : Nat, readByte { s with storage := m } a =
          if a = (s.writeCursor &&& s.capacityMask).toNat then d else readByte s a) ∧
    (s.configured = true → s.storageLen ≤ (s.writeCursor &&& s.capacityMask).toNat →
      exec (.write d) s = .fault .storageOutOfRange) ∧
    (s.configured = false →
      exec (.write d) s = .next { s with responses := s.responses ++ [0x00040000] })

/-- R91: READ's encoding; it answers the byte at `read_cursor & capacity_mask`, then increments
`read_cursor`; nothing else changes. Being empty is not looked at. -/
def Obligations.ReadReturnsThenAdvances : Prop :=
  (∀ w : CmdWord, w.extractLsb' 28 4 = 0x4 → decode w =
    if w = 0x40000000 then .ok .read else .error .strayBit) ∧
  ∀ s : State,
    (s.configured = true → (s.readCursor &&& s.capacityMask).toNat < s.storageLen →
      exec .read s = .next { s with
        readCursor := BitVec.ofNat 16 (s.readCursor.toNat + 1)
        responses := s.responses ++
          [(readByte s (s.readCursor &&& s.capacityMask).toNat).setWidth 32]
        portLog := s.portLog ++ [.memRead (s.readCursor &&& s.capacityMask)] }) ∧
    (s.configured = true → s.storageLen ≤ (s.readCursor &&& s.capacityMask).toNat →
      exec .read s = .fault .storageOutOfRange) ∧
    (s.configured = false →
      exec .read s = .next { s with responses := s.responses ++ [0x00040000] })

/-- R92: PEEK's encoding; it answers the byte at `(read_cursor + offset) & capacity_mask` and changes no
register and no cell. The offset's range is not looked at. -/
def Obligations.PeekReturnsWithoutRemoving : Prop :=
  (∀ w : CmdWord, w.extractLsb' 28 4 = 0x5 → decode w =
    if w &&& 0xFFFF0000 = 0x50000000 then .ok (.peek (w.extractLsb' 0 16)) else .error .strayBit) ∧
  ∀ (s : State) (o : Word),
    (s.configured = true → ((s.readCursor + o) &&& s.capacityMask).toNat < s.storageLen →
      exec (.peek o) s = .next { s with
        responses := s.responses ++
          [(readByte s ((s.readCursor + o) &&& s.capacityMask).toNat).setWidth 32]
        portLog := s.portLog ++ [.memRead ((s.readCursor + o) &&& s.capacityMask)] }) ∧
    (s.configured = true → s.storageLen ≤ ((s.readCursor + o) &&& s.capacityMask).toNat →
      exec (.peek o) s = .fault .storageOutOfRange) ∧
    (s.configured = false →
      exec (.peek o) s = .next { s with responses := s.responses ++ [0x00040000] })

/-! ### RST and the queries -/

/-- R100: RST's encoding; it sets `read_cursor` to `write_cursor` and nothing else; an ISEMPTY after it
answers 1. -/
def Obligations.RstDiscardsUnreadBytes : Prop :=
  (∀ w : CmdWord, w.extractLsb' 28 4 = 0x6 → decode w =
    if w = 0x60000000 then .ok .rst else .error .strayBit) ∧
  ∀ s : State,
    (s.configured = true →
      exec .rst s = .next { s with
        readCursor := s.writeCursor
        responses := s.responses ++ [0x00000000] } ∧
      exec .isempty { s with readCursor := s.writeCursor } = .next { s with
        readCursor := s.writeCursor
        responses := s.responses ++ [0x00000001] }) ∧
    (s.configured = false →
      exec .rst s = .next { s with responses := s.responses ++ [0x00040000] })

/-- R101: ISFULL's encoding; it answers 1 exactly when the fill count equals the capacity, and changes
nothing. -/
def Obligations.IsfullComparesFillWithCapacity : Prop :=
  (∀ w : CmdWord, w.extractLsb' 28 4 = 0x7 → decode w =
    if w = 0x70000000 then .ok .isfull else .error .strayBit) ∧
  ∀ s : State,
    (s.configured = true →
      exec .isfull s = .next { s with responses := s.responses ++
        [if (s.writeCursor - s.readCursor) = s.capacity then 0x00000001 else 0x00000000] }) ∧
    (s.configured = false →
      exec .isfull s = .next { s with responses := s.responses ++ [0x00040000] })

/-- R102: ISEMPTY's encoding; it answers 1 exactly when the cursors are equal, and changes nothing. -/
def Obligations.IsemptyComparesTheCursors : Prop :=
  (∀ w : CmdWord, w.extractLsb' 28 4 = 0x8 → decode w =
    if w = 0x80000000 then .ok .isempty else .error .strayBit) ∧
  ∀ s : State,
    (s.configured = true →
      exec .isempty s = .next { s with responses := s.responses ++
        [if s.writeCursor = s.readCursor then 0x00000001 else 0x00000000] }) ∧
    (s.configured = false →
      exec .isempty s = .next { s with responses := s.responses ++ [0x00040000] })

/-- R103: FILL's encoding; it answers the 16-bit difference of the cursors, with no case split on their
order, and changes nothing. -/
def Obligations.FillReportsTheDifference : Prop :=
  (∀ w : CmdWord, w.extractLsb' 28 4 = 0x9 → decode w =
    if w = 0x90000000 then .ok .fill else .error .strayBit) ∧
  ∀ s : State,
    (s.configured = true →
      exec .fill s = .next { s with responses := s.responses ++
        [BitVec.ofNat 32 ((s.writeCursor.toNat + 65536 - s.readCursor.toNat) % 65536)] }) ∧
    (s.configured = false →
      exec .fill s = .next { s with responses := s.responses ++ [0x00040000] })

/-- R104: FREE's encoding; it answers `capacity - fill` in 16 bits, and changes nothing. In overrun the
wrapped value is the spec's decision D11 (93_implementation_defined.md U4: rest no other claim on it; log
11). -/
def Obligations.FreeReportsCapacityLessFill : Prop :=
  (∀ w : CmdWord, w.extractLsb' 28 4 = 0xA → decode w =
    if w = 0xA0000000 then .ok .free else .error .strayBit) ∧
  ∀ s : State,
    (s.configured = true →
      exec .free s = .next { s with responses := s.responses ++
        [(s.capacity - (s.writeCursor - s.readCursor)).setWidth 32] }) ∧
    (s.configured = false →
      exec .free s = .next { s with responses := s.responses ++ [0x00040000] })

/-! ### Statuses and completion -/

/-- R46, R131: a command has no successor exactly when it is WRITE, READ or PEEK on a configured block
with an index outside the bound array; no command is refused. -/
def Obligations.StopsExactlyOutsideTheStorage : Prop :=
  ∀ (i : Instr) (s : State),
    (exec i s = .fault .storageOutOfRange ↔ s.configured = true ∧
      ((∃ d, i = .write d ∧ s.storageLen ≤ (s.writeCursor &&& s.capacityMask).toNat) ∨
       (i = .read ∧ s.storageLen ≤ (s.readCursor &&& s.capacityMask).toNat) ∨
       ∃ o, i = .peek o ∧ s.storageLen ≤ ((s.readCursor + o) &&& s.capacityMask).toNat)) ∧
    ∀ r, exec i s ≠ .refused r

/-- R46, R135, R159: with an array not shorter than the capacity every command, whatever its operands, is
executed and answered, with exactly one new response. -/
def Obligations.EveryCommandCompletesOverAStorageThatCovers : Prop :=
  ∀ (i : Instr) (s : State), Invariant s → (s.configured = true → StorageCovers s) →
    ∃ t r, exec i s = .next t ∧ t.responses = s.responses ++ [r]

/-- R134: a command that answers a status other than OK changes nothing but its response, and makes no
allocator request, but for INITB's request that the allocator refused after the arguments had passed
(that a failed construction changes nothing is the spec's decision D12, log 12). An illegal word changes
nothing but its response and is consumed with its input; that it is answered by a next state, where R65
lets a model fault, is the model's choice (log 2). -/
def Obligations.NonOkStatusChangesNothing : Prop :=
  (∀ (i : Instr) (s t : State) (r : RspWord),
    exec i s = .next t → t.responses = s.responses ++ [r] → rspStatus r ≠ 0 →
      t = { s with responses := s.responses ++ [r] } ∨
      ((∃ c, i = .initb true true c ∧ argsOk true c = true) ∧ s.allocGrant = false ∧ rspStatus r = 2 ∧
        t = { s with responses := s.responses ++ [r], portLog := s.portLog ++ [.allocReq] })) ∧
  ∀ (s : State) (w : CmdWord) (g : Bool) (rest : List HostInput) (e : Illegal),
    s.inputs = .command w g :: rest → decode w = .error e →
      step s = .next { s with
        inputs := rest
        allocGrant := g
        responses := s.responses ++ [0x00030000] }

/-- R33, R52: which command writes which register; the storage is written by WRITE alone, and no command
touches the length of the array, the inputs to come or the allocator's line. -/
def Obligations.EachRegisterHasItsWriters : Prop :=
  ∀ (i : Instr) (s t : State), exec i s = .next t →
    (isConstruction i = false →
      t.configured = s.configured ∧ t.capacity = s.capacity ∧ t.capacityMask = s.capacityMask) ∧
    (isConstruction i = false → (∀ d, i ≠ .write d) → t.writeCursor = s.writeCursor) ∧
    (isConstruction i = false → i ≠ .read → i ≠ .rst → t.readCursor = s.readCursor) ∧
    ((∀ d, i ≠ .write d) → t.storage = s.storage) ∧
    t.storageLen = s.storageLen ∧ t.inputs = s.inputs ∧ t.allocGrant = s.allocGrant ∧
    t.draws = s.draws

/-- R44: the storage accesses of each command that answers: exactly one for WRITE, READ and PEEK on a
configured block, at the index formed before the command; none for any other, and none on an unconfigured
block. INITB may raise one request of the allocator (R81). -/
def Obligations.AccessesOfEachCommand : Prop :=
  ∀ (i : Instr) (s t : State), exec i s = .next t →
    ∃ es, t.portLog = s.portLog ++ es ∧
      match i with
      | .write d => es =
          if s.configured then [.memWrite (s.writeCursor &&& s.capacityMask) d] else []
      | .read => es = if s.configured then [.memRead (s.readCursor &&& s.capacityMask)] else []
      | .peek o => es =
          if s.configured then [.memRead ((s.readCursor + o) &&& s.capacityMask)] else []
      | .initb _ _ _ => es = [] ∨ es = [.allocReq]
      | _ => es = []

/-- Every index that a step puts on the storage port is below the capacity, and no cell from the capacity
upward changes, no cell at all on an unconfigured block: 20_memory.md section 1 (rule R42, which the spec
infers from R41 and the mask). -/
def Obligations.AccessesStayInTheWindow : Prop :=
  ∀ s t : State, Invariant s → step s = .next t →
    (∃ es, t.portLog = s.portLog ++ es ∧ ∀ e ∈ es, indexBelow s.capacity.toNat e) ∧
    ∀ a : Nat, (s.configured = true → s.capacity.toNat ≤ a) → readByte t a = readByte s a

/-- R21: `configured` is cleared by hardware reset alone, and set by a command word that decodes to INIT
or INITB alone. -/
def Obligations.ConfiguredHasItsWriters : Prop :=
  ∀ s t : State, step s = .next t →
    (s.configured = true → t.configured = false → ∃ rest, s.inputs = .hardwareReset :: rest) ∧
    (s.configured = false → t.configured = true →
      ∃ w g rest i, s.inputs = .command w g :: rest ∧ decode w = .ok i ∧ isConstruction i = true ∧
        t.responses = s.responses ++ [0x00000000])

/-! ### The laws of the control block -/

/-- What holds of every configured block, however the host behaved: 10_state.md section 5 (rule R31,
which the spec infers). -/
def Obligations.ConfiguredBlockInvariants : Prop :=
  ∀ s : State, Invariant s → s.configured = true →
    s.capacity.toNat ∈
      [1, 2, 4, 8, 16, 32, 64, 128, 256, 512, 1024, 2048, 4096, 8192, 16384, 32768] ∧
    s.capacityMask = s.capacity - 1 ∧
    (∀ p : Word, (phys s p).toNat < s.capacity.toNat) ∧
    add16 (fill s) (free s) = s.capacity ∧
    ¬ (full s = true ∧ empty s = true)

/-- Mask is modulo: 43_wraparound_and_fill_states.md section 2 (rule R110, an inference of the spec). -/
def Obligations.MaskIsModulo : Prop :=
  ∀ s : State, Invariant s → s.configured = true → ∀ p : Word,
    (phys s p).toNat = p.toNat % s.capacity.toNat ∧ (phys s p).toNat ≤ s.capacity.toNat - 1

/-- The successor law, at the 16-bit wrap too: 43_wraparound_and_fill_states.md section 2 (rule R111, an
inference of the spec). -/
def Obligations.SuccessorLaw : Prop :=
  ∀ s : State, Invariant s → s.configured = true →
    (∀ p : Word, (phys s (inc16 p)).toNat = ((phys s p).toNat + 1) % s.capacity.toNat) ∧
    (phys s 65535).toNat = s.capacity.toNat - 1 ∧ (phys s 0).toNat = 0

/-- The offset law, and with it that PEEK depends on its offset only modulo the capacity:
43_wraparound_and_fill_states.md section 2 (rule R112, an inference of the spec). -/
def Obligations.OffsetLaw : Prop :=
  ∀ s : State, Invariant s → s.configured = true →
    (∀ p o : Word, (phys s (add16 p o)).toNat =
      ((phys s p).toNat + o.toNat % s.capacity.toNat) % s.capacity.toNat) ∧
    ∀ o q : Word, o.toNat % s.capacity.toNat = q.toNat % s.capacity.toNat →
      exec (.peek o) s = exec (.peek q) s

/-- At most `capacity` consecutive logical positions have distinct indices; below full the next WRITE
hits no unread byte; at full it hits the oldest: 43_wraparound_and_fill_states.md section 2 (rule R117,
an inference of the spec). -/
def Obligations.DistinctSlots : Prop :=
  ∀ s : State, Invariant s → s.configured = true →
    (∀ (p : Word) (i j : Nat), i < j → j < s.capacity.toNat →
      phys s (p + BitVec.ofNat 16 i) ≠ phys s (p + BitVec.ofNat 16 j)) ∧
    ((fill s).toNat < s.capacity.toNat → ∀ k, k < (fill s).toNat →
      phys s s.writeCursor ≠ phys s (s.readCursor + BitVec.ofNat 16 k)) ∧
    (fill s = s.capacity → phys s s.writeCursor = phys s s.readCursor)

/-- After `n` increments the one subtraction gives `n`, across the wrap too:
43_wraparound_and_fill_states.md section 3 (rule R114, an inference of the spec). -/
def Obligations.OneSubtractionCountsIncrements : Prop :=
  ∀ (r : Word) (n : Nat), n ≤ 65535 → (sub16 (inc16^[n] r) r).toNat = n

/-- Fill plus free is the capacity modulo 65536 always, as natural numbers up to full, and with the
wrapped FREE of decision D11 beyond it (log 11): 43_wraparound_and_fill_states.md section 3 (rule R115,
an inference of the spec). -/
def Obligations.FillPlusFree : Prop :=
  ∀ s : State,
    add16 (fill s) (free s) = s.capacity ∧
    ((fill s).toNat ≤ s.capacity.toNat →
      (fill s).toNat + (free s).toNat = s.capacity.toNat ∧ (free s).toNat ≤ s.capacity.toNat) ∧
    (s.capacity.toNat < (fill s).toNat →
      (free s).toNat = 65536 - ((fill s).toNat - s.capacity.toNat) ∧
      (fill s).toNat + (free s).toNat = s.capacity.toNat + 65536)

/-- The five classes, each by its condition and with its derived quantities; FREE in overrun is the
wrapped difference of decision D11 (log 11): 43_wraparound_and_fill_states.md section 5 (rule R120, an
inference of the spec). -/
def Obligations.ClassesByFill : Prop :=
  ∀ s : State, Invariant s →
    (fillClass s = .unconfigured ↔ s.configured = false) ∧
    (fillClass s = .empty ↔ s.configured = true ∧ fill s = 0) ∧
    (fillClass s = .partialFill ↔ s.configured = true ∧ 0 < (fill s).toNat ∧
      (fill s).toNat < s.capacity.toNat) ∧
    (fillClass s = .full ↔ s.configured = true ∧ fill s = s.capacity) ∧
    (fillClass s = .overrun ↔ s.configured = true ∧ s.capacity.toNat < (fill s).toNat) ∧
    (fillClass s = .empty → empty s = true ∧ full s = false ∧ free s = s.capacity) ∧
    (fillClass s = .partialFill → empty s = false ∧ full s = false ∧
      (free s).toNat = s.capacity.toNat - (fill s).toNat) ∧
    (fillClass s = .full → empty s = false ∧ full s = true ∧ free s = 0) ∧
    (fillClass s = .overrun → empty s = false ∧ full s = false ∧
      (free s).toNat = 65536 - ((fill s).toNat - s.capacity.toNat))

/-! ### How commands move the fill state -/

/-- How each command moves `fill` and the cursors, and that a word that is no command leaves them:
43_wraparound_and_fill_states.md section 3 (rule R113, an inference of the spec). -/
def Obligations.FillMovement : Prop :=
  (∀ (i : Instr) (s t : State), exec i s = .next t →
    (isConstruction i = true →
      (t.responses = s.responses ++ [0x00000000] →
        fill t = 0 ∧ t.writeCursor = 0 ∧ t.readCursor = 0) ∧
      (t.responses ≠ s.responses ++ [0x00000000] →
        t.writeCursor = s.writeCursor ∧ t.readCursor = s.readCursor)) ∧
    (isConstruction i = false → s.configured = false →
      t.writeCursor = s.writeCursor ∧ t.readCursor = s.readCursor) ∧
    (isConstruction i = false → s.configured = true →
      match i with
      | .write _ => fill t = add16 (fill s) 1 ∧ t.writeCursor = inc16 s.writeCursor ∧
          t.readCursor = s.readCursor
      | .read => fill t = sub16 (fill s) 1 ∧ t.writeCursor = s.writeCursor ∧
          t.readCursor = inc16 s.readCursor
      | .rst => fill t = 0 ∧ t.writeCursor = s.writeCursor ∧ t.readCursor = s.writeCursor
      | _ => fill t = fill s ∧ t.writeCursor = s.writeCursor ∧ t.readCursor = s.readCursor)) ∧
  ∀ s t : State, answerIllegal s = .next t →
    t.writeCursor = s.writeCursor ∧ t.readCursor = s.readCursor

/-- The transition table of the classes: 43_wraparound_and_fill_states.md section 5 (rule R121, an
inference of the spec). -/
def Obligations.ClassTransitions : Prop :=
  ∀ (i : Instr) (s t : State), Invariant s → exec i s = .next t →
    match i, fillClass s with
    | .init _ _ _, c =>
        fillClass t = if t.responses = s.responses ++ [0x00000000] then .empty else c
    | .initb _ _ _, c =>
        fillClass t = if t.responses = s.responses ++ [0x00000000] then .empty else c
    | .write _, .unconfigured => fillClass t = .unconfigured
    | .write _, .empty => fillClass t = if s.capacity = 1 then .full else .partialFill
    | .write _, .partialFill =>
        fillClass t = if (fill s).toNat + 1 = s.capacity.toNat then .full else .partialFill
    | .write _, .full => fillClass t = .overrun ∧ (fill t).toNat = s.capacity.toNat + 1
    | .write _, .overrun => fillClass t = if (fill s).toNat = 65535 then .empty else .overrun
    | .read, .unconfigured => fillClass t = .unconfigured
    | .read, .empty => fillClass t = .overrun ∧ (fill t).toNat = 65535
    | .read, .partialFill => fillClass t = if fill s = 1 then .empty else .partialFill
    | .read, .full => fillClass t = if s.capacity = 1 then .empty else .partialFill
    | .read, .overrun =>
        fillClass t = if (fill s).toNat = s.capacity.toNat + 1 then .full else .overrun
    | .rst, .unconfigured => fillClass t = .unconfigured
    | .rst, _ => fillClass t = .empty
    | _, c => fillClass t = c

/-- A host that keeps the contracts never drives the block into OVERRUN, and the fill count stays at most
the capacity at the end of every such run: 43_wraparound_and_fill_states.md section 5 (rule R122, an
inference of the spec). -/
def Obligations.ContractsKeepOutOfOverrun : Prop :=
  ∀ (cmds : List Instr) (s t : State),
    Invariant s → fillClass s ≠ .overrun → contractRun cmds s → runCommands cmds s = .next t →
      fillClass t ≠ .overrun ∧ (t.configured = true → (fill t).toNat ≤ t.capacity.toNat)

/-- Every state comes back to EMPTY by one successful INIT or, granted, INITB and, when configured, by
one RST: 60_exceptions.md section 4 (rule R135, an inference of the spec). -/
def Obligations.EveryStateRecoversToEmpty : Prop :=
  ∀ s : State,
    (∀ k, k < 16 → ∃ t, exec (.init true true (BitVec.ofNat 16 (2 ^ k))) s = .next t ∧
      fillClass t = .empty) ∧
    (s.allocGrant = true → ∀ k, k < 16 →
      ∃ t, exec (.initb true true (BitVec.ofNat 16 (2 ^ k))) s = .next t ∧ fillClass t = .empty) ∧
    (s.configured = true → ∃ t, exec .rst s = .next t ∧ fillClass t = .empty)

/-! ### First in, first out -/

/-- The unread bytes behave as a queue: under the contract WRITE appends, READ answers and removes the
head, PEEK answers the byte at its offset, RST and a construction empty it. The queue is the model's
reading of R90, R91, R92, R100 and R80. -/
def Obligations.UnreadBytesAreAQueue : Prop :=
  ∀ s : State, Invariant s → s.configured = true → StorageCovers s →
    (∀ d, (fill s).toNat < s.capacity.toNat →
      ∃ t, exec (.write d) s = .next t ∧ unread t = unread s ++ [d]) ∧
    (0 < (fill s).toNat → (fill s).toNat ≤ s.capacity.toNat →
      ∃ b q t, unread s = b :: q ∧ exec .read s = .next t ∧
        t.responses = s.responses ++ [b.setWidth 32] ∧ unread t = q) ∧
    (∀ k : Word, k.toNat < (fill s).toNat →
      ∃ b t, (unread s)[k.toNat]? = some b ∧ exec (.peek k) s = .next t ∧
        t.responses = s.responses ++ [b.setWidth 32] ∧ unread t = unread s) ∧
    (∃ t, exec .rst s = .next t ∧ unread t = []) ∧
    ∀ k, k < 16 → ∃ t, exec (.init true true (BitVec.ofNat 16 (2 ^ k))) s = .next t ∧ unread t = []

/-- From an empty configured block, in any interleaving of WRITEs and READs that keeps the contracts,
every command is answered and the READs return the bytes of the WRITEs in order:
43_wraparound_and_fill_states.md section 4 (rule R118, an inference of the spec). -/
def Obligations.FifoOrder : Prop :=
  ∀ (cmds : List Instr) (s : State),
    Invariant s → s.configured = true → StorageCovers s → fill s = 0 →
    (∀ i ∈ cmds, isTransfer i = true) → contractRun cmds s →
      ∃ t rs, runCommands cmds s = .next t ∧ t.responses = s.responses ++ rs ∧
        rs.length = cmds.length ∧ readBytes cmds rs <+: writtenBytes cmds

/-- PEEK k answers what the (k+1)-th of the next READs would; and PEEK of the newest position answers the
byte most recently written: 43_wraparound_and_fill_states.md section 4 (rule R119, an inference of the
spec). -/
def Obligations.PeekForetellsTheReads : Prop :=
  ∀ s : State, Invariant s → s.configured = true → StorageCovers s →
    (∀ k : Word, k.toNat < (fill s).toNat → (fill s).toNat ≤ s.capacity.toNat →
      ∃ t u v r, exec (.peek k) s = .next t ∧ t.responses = s.responses ++ [r] ∧
        runCommands (List.replicate k.toNat .read) s = .next u ∧ exec .read u = .next v ∧
        v.responses = u.responses ++ [r]) ∧
    (∀ d, (fill s).toNat < s.capacity.toNat →
      ∃ t u, exec (.write d) s = .next t ∧ exec (.peek (fill t - 1)) t = .next u ∧
        u.responses = t.responses ++ [d.setWidth 32])

/-- Any number of WRITE and READ pairs moves both cursors by that number; with both at 65534 the byte
written next is the one PEEK 0 answers, FREE then answers capacity - 1, and a second WRITE takes
`write_cursor` to 0 with a fill count of 2: 43_wraparound_and_fill_states.md section 4 (rule R124, an
inference of the spec). -/
def Obligations.WrapAroundScenario : Prop :=
  ∀ s : State, Invariant s → s.configured = true → StorageCovers s →
    (∀ ds : List Byte, ∃ t, runCommands (writeReadPairs ds) s = .next t ∧
      t.writeCursor = s.writeCursor + BitVec.ofNat 16 ds.length ∧
      t.readCursor = s.readCursor + BitVec.ofNat 16 ds.length) ∧
    (s.writeCursor = 65534 → s.readCursor = 65534 → ∀ d e : Byte,
      ∃ t u v w, exec (.write d) s = .next t ∧ exec (.peek 0) t = .next u ∧
        u.responses = t.responses ++ [d.setWidth 32] ∧ exec .free u = .next v ∧
        v.responses = u.responses ++ [(s.capacity - 1).setWidth 32] ∧
        exec (.write e) v = .next w ∧ w.writeCursor = 0 ∧ fill w = 2)

/-! ### What can be observed -/

/-- Two states of the same view give the same responses, the same port events and the same outcome over
every run of steps, hardware reset among them (for an unconfigured block the registers are not compared,
R32): 43_wraparound_and_fill_states.md section 4 (rule R123, an inference of the spec). -/
def Obligations.SameViewsAnswerAlike : Prop :=
  ∀ (n : Nat) (s t : State), SameView s t →
    SameAnswer s t (Host.Core.run Sys2Proof.core n s) (Host.Core.run Sys2Proof.core n t)
end

