-- ==== Sys2Proof/Laws/Decode.lean ====
section
/-! SUPPORT. Everything the decoder can do, said once: which rows it accepts and what each gives. -/

namespace Sys2Proof

/-- A full mask keeps the word. -/
theorem and_full_mask (w : CmdWord) : w &&& 0xFFFFFFFF = w := by
  have h : (0xFFFFFFFF : CmdWord) = BitVec.allOnes 32 := by decide
  rw [h, BitVec.and_allOnes]

/-- A mask that covers the opcode fixes it. -/
theorem opField_of_masked {w mask fixed : CmdWord} (h : w &&& mask = fixed)
    (hm : mask.extractLsb' 28 4 = 15) : opField w = fixed.extractLsb' 28 4 := by
  subst h
  have hand : (w &&& mask).extractLsb' 28 4 = opField w &&& mask.extractLsb' 28 4 := by
    ext j hj
    simp [opField]
  rw [hand, hm]
  ext j hj
  interval_cases j <;> simp

theorem decodeRow_eq_ok {w fixed mask : CmdWord} {i j : Instr} :
    decodeRow w fixed mask i = .ok j ↔ w &&& mask = fixed ∧ j = i := by
  unfold decodeRow
  split <;> simp_all [eq_comm]

/-- A word that decodes matches one row of the map, and is that row's command with its operands. -/
theorem decode_cases {w : CmdWord} {i : Instr} (h : decode w = .ok i) :
    (w &&& 0xFCFF0000 = 0x10000000 ∧ i = .init (bitField w 24) (bitField w 25) (wordField w)) ∨
    (w &&& 0xF9FF0000 = 0x20000000 ∧ i = .initb (bitField w 26) (bitField w 25) (wordField w)) ∨
    (w &&& 0xFFFFFF00 = 0x30000000 ∧ i = .write (byteField w)) ∨
    (w = 0x40000000 ∧ i = .read) ∨
    (w &&& 0xFFFF0000 = 0x50000000 ∧ i = .peek (wordField w)) ∨
    (w = 0x60000000 ∧ i = .rst) ∨
    (w = 0x70000000 ∧ i = .isfull) ∨
    (w = 0x80000000 ∧ i = .isempty) ∨
    (w = 0x90000000 ∧ i = .fill) ∨
    (w = 0xA0000000 ∧ i = .free) := by
  unfold decode at h
  split at h
  · obtain ⟨hw, rfl⟩ := decodeRow_eq_ok.1 h
    exact .inl ⟨hw, rfl⟩
  · obtain ⟨hw, rfl⟩ := decodeRow_eq_ok.1 h
    exact .inr (.inl ⟨hw, rfl⟩)
  · obtain ⟨hw, rfl⟩ := decodeRow_eq_ok.1 h
    exact .inr (.inr (.inl ⟨hw, rfl⟩))
  · obtain ⟨hw, rfl⟩ := decodeRow_eq_ok.1 h
    rw [and_full_mask] at hw
    exact .inr (.inr (.inr (.inl ⟨hw, rfl⟩)))
  · obtain ⟨hw, rfl⟩ := decodeRow_eq_ok.1 h
    exact .inr (.inr (.inr (.inr (.inl ⟨hw, rfl⟩))))
  · obtain ⟨hw, rfl⟩ := decodeRow_eq_ok.1 h
    rw [and_full_mask] at hw
    exact .inr (.inr (.inr (.inr (.inr (.inl ⟨hw, rfl⟩)))))
  · obtain ⟨hw, rfl⟩ := decodeRow_eq_ok.1 h
    rw [and_full_mask] at hw
    exact .inr (.inr (.inr (.inr (.inr (.inr (.inl ⟨hw, rfl⟩))))))
  · obtain ⟨hw, rfl⟩ := decodeRow_eq_ok.1 h
    rw [and_full_mask] at hw
    exact .inr (.inr (.inr (.inr (.inr (.inr (.inr (.inl ⟨hw, rfl⟩)))))))
  · obtain ⟨hw, rfl⟩ := decodeRow_eq_ok.1 h
    rw [and_full_mask] at hw
    exact .inr (.inr (.inr (.inr (.inr (.inr (.inr (.inr (.inl ⟨hw, rfl⟩))))))))
  · obtain ⟨hw, rfl⟩ := decodeRow_eq_ok.1 h
    rw [and_full_mask] at hw
    exact .inr (.inr (.inr (.inr (.inr (.inr (.inr (.inr (.inr ⟨hw, rfl⟩))))))))
  · cases h

theorem decode_init {w : CmdWord} (h : w &&& 0xFCFF0000 = 0x10000000) :
    decode w = .ok (.init (bitField w 24) (bitField w 25) (wordField w)) := by
  simp only [decode, opField_of_masked h (by decide)]
  exact if_pos h

theorem decode_initb {w : CmdWord} (h : w &&& 0xF9FF0000 = 0x20000000) :
    decode w = .ok (.initb (bitField w 26) (bitField w 25) (wordField w)) := by
  simp only [decode, opField_of_masked h (by decide)]
  exact if_pos h

theorem decode_write {w : CmdWord} (h : w &&& 0xFFFFFF00 = 0x30000000) :
    decode w = .ok (.write (byteField w)) := by
  simp only [decode, opField_of_masked h (by decide)]
  exact if_pos h

theorem decode_peek {w : CmdWord} (h : w &&& 0xFFFF0000 = 0x50000000) :
    decode w = .ok (.peek (wordField w)) := by
  simp only [decode, opField_of_masked h (by decide)]
  exact if_pos h

end Sys2Proof
end

