-- ==== Sys2Proof/Laws/State.lean ====
section
/-! SUPPORT. What each update of the state leaves in each field, so that no proof unfolds a record update. -/

namespace Sys2Proof.Machine

@[simp] theorem logPort_configured (e : PortEvent) (s : State) :
    (logPort e s).configured = s.configured := rfl
@[simp] theorem logPort_capacity (e : PortEvent) (s : State) :
    (logPort e s).capacity = s.capacity := rfl
@[simp] theorem logPort_capacityMask (e : PortEvent) (s : State) :
    (logPort e s).capacityMask = s.capacityMask := rfl
@[simp] theorem logPort_writeCursor (e : PortEvent) (s : State) :
    (logPort e s).writeCursor = s.writeCursor := rfl
@[simp] theorem logPort_readCursor (e : PortEvent) (s : State) :
    (logPort e s).readCursor = s.readCursor := rfl
@[simp] theorem logPort_storage (e : PortEvent) (s : State) :
    (logPort e s).storage = s.storage := rfl
@[simp] theorem logPort_storageLen (e : PortEvent) (s : State) :
    (logPort e s).storageLen = s.storageLen := rfl
@[simp] theorem logPort_inputs (e : PortEvent) (s : State) :
    (logPort e s).inputs = s.inputs := rfl
@[simp] theorem logPort_allocGrant (e : PortEvent) (s : State) :
    (logPort e s).allocGrant = s.allocGrant := rfl
@[simp] theorem logPort_responses (e : PortEvent) (s : State) :
    (logPort e s).responses = s.responses := rfl
@[simp] theorem logPort_portLog (e : PortEvent) (s : State) :
    (logPort e s).portLog = s.portLog ++ [e] := rfl
@[simp] theorem logPort_draws (e : PortEvent) (s : State) :
    (logPort e s).draws = s.draws := rfl

@[simp] theorem respond_configured (st : Status) (v : Word) (s : State) :
    (respond st v s).configured = s.configured := rfl
@[simp] theorem respond_capacity (st : Status) (v : Word) (s : State) :
    (respond st v s).capacity = s.capacity := rfl
@[simp] theorem respond_capacityMask (st : Status) (v : Word) (s : State) :
    (respond st v s).capacityMask = s.capacityMask := rfl
@[simp] theorem respond_writeCursor (st : Status) (v : Word) (s : State) :
    (respond st v s).writeCursor = s.writeCursor := rfl
@[simp] theorem respond_readCursor (st : Status) (v : Word) (s : State) :
    (respond st v s).readCursor = s.readCursor := rfl
@[simp] theorem respond_storage (st : Status) (v : Word) (s : State) :
    (respond st v s).storage = s.storage := rfl
@[simp] theorem respond_storageLen (st : Status) (v : Word) (s : State) :
    (respond st v s).storageLen = s.storageLen := rfl
@[simp] theorem respond_inputs (st : Status) (v : Word) (s : State) :
    (respond st v s).inputs = s.inputs := rfl
@[simp] theorem respond_allocGrant (st : Status) (v : Word) (s : State) :
    (respond st v s).allocGrant = s.allocGrant := rfl
@[simp] theorem respond_responses (st : Status) (v : Word) (s : State) :
    (respond st v s).responses = s.responses ++ [rspWord st v] := rfl
@[simp] theorem respond_portLog (st : Status) (v : Word) (s : State) :
    (respond st v s).portLog = s.portLog := rfl
@[simp] theorem respond_draws (st : Status) (v : Word) (s : State) :
    (respond st v s).draws = s.draws := rfl

@[simp] theorem raiseStatus_configured (st : Status) (s : State) :
    (raiseStatus st s).configured = s.configured := rfl
@[simp] theorem raiseStatus_capacity (st : Status) (s : State) :
    (raiseStatus st s).capacity = s.capacity := rfl
@[simp] theorem raiseStatus_capacityMask (st : Status) (s : State) :
    (raiseStatus st s).capacityMask = s.capacityMask := rfl
@[simp] theorem raiseStatus_writeCursor (st : Status) (s : State) :
    (raiseStatus st s).writeCursor = s.writeCursor := rfl
@[simp] theorem raiseStatus_readCursor (st : Status) (s : State) :
    (raiseStatus st s).readCursor = s.readCursor := rfl
@[simp] theorem raiseStatus_storage (st : Status) (s : State) :
    (raiseStatus st s).storage = s.storage := rfl
@[simp] theorem raiseStatus_storageLen (st : Status) (s : State) :
    (raiseStatus st s).storageLen = s.storageLen := rfl
@[simp] theorem raiseStatus_inputs (st : Status) (s : State) :
    (raiseStatus st s).inputs = s.inputs := rfl
@[simp] theorem raiseStatus_allocGrant (st : Status) (s : State) :
    (raiseStatus st s).allocGrant = s.allocGrant := rfl
@[simp] theorem raiseStatus_responses (st : Status) (s : State) :
    (raiseStatus st s).responses = s.responses ++ [rspWord st 0] := rfl
@[simp] theorem raiseStatus_portLog (st : Status) (s : State) :
    (raiseStatus st s).portLog = s.portLog := rfl
@[simp] theorem raiseStatus_draws (st : Status) (s : State) :
    (raiseStatus st s).draws = s.draws := rfl

@[simp] theorem requestAllocator_configured (s : State) :
    (requestAllocator s).configured = s.configured := rfl
@[simp] theorem requestAllocator_capacity (s : State) :
    (requestAllocator s).capacity = s.capacity := rfl
@[simp] theorem requestAllocator_capacityMask (s : State) :
    (requestAllocator s).capacityMask = s.capacityMask := rfl
@[simp] theorem requestAllocator_writeCursor (s : State) :
    (requestAllocator s).writeCursor = s.writeCursor := rfl
@[simp] theorem requestAllocator_readCursor (s : State) :
    (requestAllocator s).readCursor = s.readCursor := rfl
@[simp] theorem requestAllocator_storage (s : State) :
    (requestAllocator s).storage = s.storage := rfl
@[simp] theorem requestAllocator_storageLen (s : State) :
    (requestAllocator s).storageLen = s.storageLen := rfl
@[simp] theorem requestAllocator_inputs (s : State) :
    (requestAllocator s).inputs = s.inputs := rfl
@[simp] theorem requestAllocator_allocGrant (s : State) :
    (requestAllocator s).allocGrant = s.allocGrant := rfl
@[simp] theorem requestAllocator_responses (s : State) :
    (requestAllocator s).responses = s.responses := rfl
@[simp] theorem requestAllocator_portLog (s : State) :
    (requestAllocator s).portLog = s.portLog ++ [.allocReq] := rfl
@[simp] theorem requestAllocator_draws (s : State) :
    (requestAllocator s).draws = s.draws := rfl

@[simp] theorem populate_configured (c : Word) (s : State) :
    (populate c s).configured = true := rfl
@[simp] theorem populate_capacity (c : Word) (s : State) :
    (populate c s).capacity = c := rfl
@[simp] theorem populate_capacityMask (c : Word) (s : State) :
    (populate c s).capacityMask = sub16 c 1 := rfl
@[simp] theorem populate_writeCursor (c : Word) (s : State) :
    (populate c s).writeCursor = 0 := rfl
@[simp] theorem populate_readCursor (c : Word) (s : State) :
    (populate c s).readCursor = 0 := rfl
@[simp] theorem populate_storage (c : Word) (s : State) :
    (populate c s).storage = s.storage := rfl
@[simp] theorem populate_storageLen (c : Word) (s : State) :
    (populate c s).storageLen = s.storageLen := rfl
@[simp] theorem populate_inputs (c : Word) (s : State) :
    (populate c s).inputs = s.inputs := rfl
@[simp] theorem populate_allocGrant (c : Word) (s : State) :
    (populate c s).allocGrant = s.allocGrant := rfl
@[simp] theorem populate_responses (c : Word) (s : State) :
    (populate c s).responses = s.responses := rfl
@[simp] theorem populate_portLog (c : Word) (s : State) :
    (populate c s).portLog = s.portLog := rfl
@[simp] theorem populate_draws (c : Word) (s : State) :
    (populate c s).draws = s.draws := rfl

@[simp] theorem advanceWrite_configured (s : State) :
    (advanceWrite s).configured = s.configured := rfl
@[simp] theorem advanceWrite_capacity (s : State) :
    (advanceWrite s).capacity = s.capacity := rfl
@[simp] theorem advanceWrite_capacityMask (s : State) :
    (advanceWrite s).capacityMask = s.capacityMask := rfl
@[simp] theorem advanceWrite_writeCursor (s : State) :
    (advanceWrite s).writeCursor = inc16 s.writeCursor := rfl
@[simp] theorem advanceWrite_readCursor (s : State) :
    (advanceWrite s).readCursor = s.readCursor := rfl
@[simp] theorem advanceWrite_storage (s : State) :
    (advanceWrite s).storage = s.storage := rfl
@[simp] theorem advanceWrite_storageLen (s : State) :
    (advanceWrite s).storageLen = s.storageLen := rfl
@[simp] theorem advanceWrite_inputs (s : State) :
    (advanceWrite s).inputs = s.inputs := rfl
@[simp] theorem advanceWrite_allocGrant (s : State) :
    (advanceWrite s).allocGrant = s.allocGrant := rfl
@[simp] theorem advanceWrite_responses (s : State) :
    (advanceWrite s).responses = s.responses := rfl
@[simp] theorem advanceWrite_portLog (s : State) :
    (advanceWrite s).portLog = s.portLog := rfl
@[simp] theorem advanceWrite_draws (s : State) :
    (advanceWrite s).draws = s.draws := rfl

@[simp] theorem advanceRead_configured (s : State) :
    (advanceRead s).configured = s.configured := rfl
@[simp] theorem advanceRead_capacity (s : State) :
    (advanceRead s).capacity = s.capacity := rfl
@[simp] theorem advanceRead_capacityMask (s : State) :
    (advanceRead s).capacityMask = s.capacityMask := rfl
@[simp] theorem advanceRead_writeCursor (s : State) :
    (advanceRead s).writeCursor = s.writeCursor := rfl
@[simp] theorem advanceRead_readCursor (s : State) :
    (advanceRead s).readCursor = inc16 s.readCursor := rfl
@[simp] theorem advanceRead_storage (s : State) :
    (advanceRead s).storage = s.storage := rfl
@[simp] theorem advanceRead_storageLen (s : State) :
    (advanceRead s).storageLen = s.storageLen := rfl
@[simp] theorem advanceRead_inputs (s : State) :
    (advanceRead s).inputs = s.inputs := rfl
@[simp] theorem advanceRead_allocGrant (s : State) :
    (advanceRead s).allocGrant = s.allocGrant := rfl
@[simp] theorem advanceRead_responses (s : State) :
    (advanceRead s).responses = s.responses := rfl
@[simp] theorem advanceRead_portLog (s : State) :
    (advanceRead s).portLog = s.portLog := rfl
@[simp] theorem advanceRead_draws (s : State) :
    (advanceRead s).draws = s.draws := rfl

@[simp] theorem discardUnread_configured (s : State) :
    (discardUnread s).configured = s.configured := rfl
@[simp] theorem discardUnread_capacity (s : State) :
    (discardUnread s).capacity = s.capacity := rfl
@[simp] theorem discardUnread_capacityMask (s : State) :
    (discardUnread s).capacityMask = s.capacityMask := rfl
@[simp] theorem discardUnread_writeCursor (s : State) :
    (discardUnread s).writeCursor = s.writeCursor := rfl
@[simp] theorem discardUnread_readCursor (s : State) :
    (discardUnread s).readCursor = s.writeCursor := rfl
@[simp] theorem discardUnread_storage (s : State) :
    (discardUnread s).storage = s.storage := rfl
@[simp] theorem discardUnread_storageLen (s : State) :
    (discardUnread s).storageLen = s.storageLen := rfl
@[simp] theorem discardUnread_inputs (s : State) :
    (discardUnread s).inputs = s.inputs := rfl
@[simp] theorem discardUnread_allocGrant (s : State) :
    (discardUnread s).allocGrant = s.allocGrant := rfl
@[simp] theorem discardUnread_responses (s : State) :
    (discardUnread s).responses = s.responses := rfl
@[simp] theorem discardUnread_portLog (s : State) :
    (discardUnread s).portLog = s.portLog := rfl
@[simp] theorem discardUnread_draws (s : State) :
    (discardUnread s).draws = s.draws := rfl

@[simp] theorem hardwareReset_configured (s : State) :
    (hardwareReset s).configured = false := rfl
@[simp] theorem hardwareReset_capacity (s : State) :
    (hardwareReset s).capacity = Config.resetWord s.draws := rfl
@[simp] theorem hardwareReset_capacityMask (s : State) :
    (hardwareReset s).capacityMask = Config.resetWord (s.draws + 1) := rfl
@[simp] theorem hardwareReset_writeCursor (s : State) :
    (hardwareReset s).writeCursor = Config.resetWord (s.draws + 2) := rfl
@[simp] theorem hardwareReset_readCursor (s : State) :
    (hardwareReset s).readCursor = Config.resetWord (s.draws + 3) := rfl
@[simp] theorem hardwareReset_storage (s : State) :
    (hardwareReset s).storage = s.storage := rfl
@[simp] theorem hardwareReset_storageLen (s : State) :
    (hardwareReset s).storageLen = s.storageLen := rfl
@[simp] theorem hardwareReset_inputs (s : State) :
    (hardwareReset s).inputs = s.inputs := rfl
@[simp] theorem hardwareReset_allocGrant (s : State) :
    (hardwareReset s).allocGrant = s.allocGrant := rfl
@[simp] theorem hardwareReset_responses (s : State) :
    (hardwareReset s).responses = s.responses := rfl
@[simp] theorem hardwareReset_portLog (s : State) :
    (hardwareReset s).portLog = s.portLog := rfl
@[simp] theorem hardwareReset_draws (s : State) :
    (hardwareReset s).draws = s.draws + 4 := rfl

@[simp] theorem acceptInput_configured (rest : List HostInput) (g : Bool) (s : State) :
    (acceptInput rest g s).configured = s.configured := rfl
@[simp] theorem acceptInput_capacity (rest : List HostInput) (g : Bool) (s : State) :
    (acceptInput rest g s).capacity = s.capacity := rfl
@[simp] theorem acceptInput_capacityMask (rest : List HostInput) (g : Bool) (s : State) :
    (acceptInput rest g s).capacityMask = s.capacityMask := rfl
@[simp] theorem acceptInput_writeCursor (rest : List HostInput) (g : Bool) (s : State) :
    (acceptInput rest g s).writeCursor = s.writeCursor := rfl
@[simp] theorem acceptInput_readCursor (rest : List HostInput) (g : Bool) (s : State) :
    (acceptInput rest g s).readCursor = s.readCursor := rfl
@[simp] theorem acceptInput_storage (rest : List HostInput) (g : Bool) (s : State) :
    (acceptInput rest g s).storage = s.storage := rfl
@[simp] theorem acceptInput_storageLen (rest : List HostInput) (g : Bool) (s : State) :
    (acceptInput rest g s).storageLen = s.storageLen := rfl
@[simp] theorem acceptInput_inputs (rest : List HostInput) (g : Bool) (s : State) :
    (acceptInput rest g s).inputs = rest := rfl
@[simp] theorem acceptInput_allocGrant (rest : List HostInput) (g : Bool) (s : State) :
    (acceptInput rest g s).allocGrant = g := rfl
@[simp] theorem acceptInput_responses (rest : List HostInput) (g : Bool) (s : State) :
    (acceptInput rest g s).responses = s.responses := rfl
@[simp] theorem acceptInput_portLog (rest : List HostInput) (g : Bool) (s : State) :
    (acceptInput rest g s).portLog = s.portLog := rfl
@[simp] theorem acceptInput_draws (rest : List HostInput) (g : Bool) (s : State) :
    (acceptInput rest g s).draws = s.draws := rfl

@[simp] theorem presentWord_configured (w : CmdWord) (s : State) :
    (presentWord w s).configured = s.configured := rfl
@[simp] theorem presentWord_capacity (w : CmdWord) (s : State) :
    (presentWord w s).capacity = s.capacity := rfl
@[simp] theorem presentWord_capacityMask (w : CmdWord) (s : State) :
    (presentWord w s).capacityMask = s.capacityMask := rfl
@[simp] theorem presentWord_writeCursor (w : CmdWord) (s : State) :
    (presentWord w s).writeCursor = s.writeCursor := rfl
@[simp] theorem presentWord_readCursor (w : CmdWord) (s : State) :
    (presentWord w s).readCursor = s.readCursor := rfl
@[simp] theorem presentWord_storage (w : CmdWord) (s : State) :
    (presentWord w s).storage = s.storage := rfl
@[simp] theorem presentWord_storageLen (w : CmdWord) (s : State) :
    (presentWord w s).storageLen = s.storageLen := rfl
@[simp] theorem presentWord_inputs (w : CmdWord) (s : State) :
    (presentWord w s).inputs = .command w s.allocGrant :: s.inputs := rfl
@[simp] theorem presentWord_allocGrant (w : CmdWord) (s : State) :
    (presentWord w s).allocGrant = s.allocGrant := rfl
@[simp] theorem presentWord_responses (w : CmdWord) (s : State) :
    (presentWord w s).responses = s.responses := rfl
@[simp] theorem presentWord_portLog (w : CmdWord) (s : State) :
    (presentWord w s).portLog = s.portLog := rfl
@[simp] theorem presentWord_draws (w : CmdWord) (s : State) :
    (presentWord w s).draws = s.draws := rfl

end Sys2Proof.Machine
end

