-- ==== Sys2Proof/Laws/Memory.lean ====
section
/-! SUPPORT. The storage as data: a read after a write, and the canonical form that every write keeps. -/

namespace Sys2Proof.Machine

@[simp] theorem lookup_store_same (m : Memory) (a : Nat) (v : Byte) :
    (m.store a v).lookup a = some v := by
  induction m with
  | nil => simp [Memory.store, Memory.lookup]
  | cons c m ih =>
    unfold Memory.store
    split
    · simp [Memory.lookup]
    · split
      · simp [Memory.lookup]
      · have : c.1 ≠ a := by omega
        simp [Memory.lookup, this, ih]

theorem lookup_store_other (m : Memory) {a b : Nat} (v : Byte) (h : b ≠ a) :
    (m.store a v).lookup b = m.lookup b := by
  induction m with
  | nil => simp [Memory.store, Memory.lookup, Ne.symm h]
  | cons c m ih =>
    unfold Memory.store
    split
    · simp [Memory.lookup, Ne.symm h]
    · split
      · rename_i _ hc
        simp [Memory.lookup, Ne.symm h, hc ▸ Ne.symm h]
      · simp [Memory.lookup, ih]

/-- The least index of a store: the new one or the least one there was. -/
theorem store_head (m : Memory) (a : Nat) (v : Byte) :
    ∃ c t, m.store a v = c :: t ∧ (c.1 = a ∨ ∃ d m', m = d :: m' ∧ c.1 = d.1) := by
  cases m with
  | nil => exact ⟨(a, v), [], rfl, .inl rfl⟩
  | cons d m =>
    unfold Memory.store
    split
    · exact ⟨_, _, rfl, .inl rfl⟩
    · split
      · exact ⟨_, _, rfl, .inl rfl⟩
      · exact ⟨_, _, rfl, .inr ⟨d, m, rfl, rfl⟩⟩

theorem wf_cons {c : Host.Cell} {m : Memory} :
    Memory.wf (c :: m) = true ↔ (∀ d t, m = d :: t → c.1 < d.1) ∧ m.wf = true := by
  cases m with
  | nil => simp [Memory.wf]
  | cons d m =>
    simp only [Memory.wf, Bool.and_eq_true, decide_eq_true_eq]
    constructor
    · rintro ⟨h, h'⟩
      refine ⟨?_, h'⟩
      rintro e t ⟨⟩
      exact h
    · rintro ⟨h, h'⟩
      exact ⟨h d m rfl, h'⟩

/-- A store keeps the canonical form. -/
theorem store_wf {m : Memory} (a : Nat) (v : Byte) (h : m.wf = true) : (m.store a v).wf = true := by
  induction m with
  | nil => rfl
  | cons c m ih =>
    obtain ⟨hlt, hm⟩ := wf_cons.1 h
    unfold Memory.store
    split
    · rename_i hac
      refine wf_cons.2 ⟨?_, h⟩
      rintro d t ⟨⟩
      exact hac
    · split
      · rename_i _ hac
        refine wf_cons.2 ⟨?_, hm⟩
        intro d t hd
        exact hac ▸ hlt d t hd
      · rename_i h1 h2
        refine wf_cons.2 ⟨?_, ih hm⟩
        intro d t hd
        obtain ⟨e, u, he, hor⟩ := store_head m a v
        obtain ⟨rfl, rfl⟩ : e = d ∧ u = t := by simpa using he.symm.trans hd
        rcases hor with h3 | ⟨f, m', rfl, h3⟩
        · omega
        · have := hlt f m' rfl
          omega

/-- A store lists no cell but the one stored to and those listed before. -/
theorem store_mem {m : Memory} {a : Nat} {v : Byte} {c : Host.Cell} (h : c ∈ m.store a v) :
    c = (a, v) ∨ c ∈ m := by
  induction m with
  | nil => simpa [Memory.store] using h
  | cons d m ih =>
    unfold Memory.store at h
    split at h
    · simpa using h
    · split at h
      · simp only [List.mem_cons] at h ⊢
        tauto
      · simp only [List.mem_cons] at h ⊢
        rcases h with h | h
        · exact .inr (.inl h)
        · rcases ih h with h | h
          · exact .inl h
          · exact .inr (.inr h)

/-- What one byte reads as after a store, for every byte. -/
theorem readByte_store (s : State) (a b : Nat) (v : Byte) :
    readByte { s with storage := s.storage.store a v } b = if b = a then v else readByte s b := by
  by_cases h : b = a
  · subst h
    simp [readByte]
  · simp [readByte, h, lookup_store_other s.storage v h]

/-- A byte's reading depends on the storage alone. -/
theorem readByte_congr {s t : State} (h : s.storage = t.storage) (a : Nat) :
    readByte s a = readByte t a := by
  simp [readByte, h]

end Sys2Proof.Machine
end

