-- ==== Sys2Proof/Laws/Ops.lean ====
section
/-! SUPPORT. One lemma per shared operation that says once everything it can do; proofs cite these
instead of unfolding the operations. -/

namespace Sys2Proof.Machine

@[simp] theorem add16_eq (a b : Word) : add16 a b = a + b := rfl
@[simp] theorem sub16_eq (a b : Word) : sub16 a b = a - b := rfl
@[simp] theorem inc16_eq (a : Word) : inc16 a = a + 1 := rfl
@[simp] theorem and16_eq (a b : Word) : and16 a b = a &&& b := rfl

/-- `MemRead` answers the byte of a cell of the array and records the access. -/
theorem memRead_eq_ok {idx : Word} {s t : State} {b : Byte} :
    memRead idx s = .ok (b, t) ↔
      idx.toNat < s.storageLen ∧ b = readByte s idx.toNat ∧ t = logPort (.memRead idx) s := by
  unfold memRead
  split
  · simp_all [eq_comm]
  · simp_all

/-- `MemWrite` changes one cell of the array and records the access. -/
theorem memWrite_eq_ok {idx : Word} {v : Byte} {s t : State} :
    memWrite idx v s = .ok t ↔
      idx.toNat < s.storageLen ∧
        t = logPort (.memWrite idx v) { s with storage := s.storage.store idx.toNat v } := by
  unfold memWrite
  split
  · simp_all [eq_comm]
  · simp_all

theorem withMemRead_inside {idx : Word} {s : State} (h : idx.toNat < s.storageLen)
    (k : Byte → State → Result) :
    withMemRead idx s k = k (readByte s idx.toNat) (logPort (.memRead idx) s) := by
  simp [withMemRead, memRead, h]

theorem withMemRead_outside {idx : Word} {s : State} (h : ¬ idx.toNat < s.storageLen)
    (k : Byte → State → Result) : withMemRead idx s k = .fault .storageOutOfRange := by
  simp [withMemRead, memRead, h]

theorem withMemWrite_inside {idx : Word} {v : Byte} {s : State} (h : idx.toNat < s.storageLen)
    (k : State → Result) :
    withMemWrite idx v s k =
      k (logPort (.memWrite idx v) { s with storage := s.storage.store idx.toNat v }) := by
  simp [withMemWrite, memWrite, h]

theorem withMemWrite_outside {idx : Word} {v : Byte} {s : State} (h : ¬ idx.toNat < s.storageLen)
    (k : State → Result) : withMemWrite idx v s k = .fault .storageOutOfRange := by
  simp [withMemWrite, memWrite, h]

theorem whenConfigured_configured {s : State} (h : s.configured = true) (k : State → Result) :
    whenConfigured s k = k s := by
  simp [whenConfigured, h]

theorem whenConfigured_unconfigured {s : State} (h : s.configured = false) (k : State → Result) :
    whenConfigured s k = answerStatus .notConfigured s := by
  simp [whenConfigured, h]

/-- What `accept` finds at a command word: the decoded command, or an illegal word. -/
theorem accept_command {s : State} {w : CmdWord} {g : Bool} {rest : List HostInput}
    (h : s.inputs = .command w g :: rest) :
    accept s =
      match decode w with
      | .ok i => .command i (acceptInput rest g s)
      | .error _ => .illegal (acceptInput rest g s) := by
  cases hd : decode w <;> simp [accept, h, hd]

theorem accept_idle {s : State} (h : s.inputs = []) : accept s = .idle := by
  simp [accept, h]

theorem accept_reset {s : State} {rest : List HostInput} (h : s.inputs = .hardwareReset :: rest) :
    accept s = .reset (acceptInput rest s.allocGrant s) := by
  simp [accept, h]

end Sys2Proof.Machine
end

