-- ==== Sys2Proof/Laws/Meanings.lean ====
section
/-! SUPPORT. One inversion lemma per meaning: if it answers a next state, then which one and when. -/

namespace Sys2Proof.Machine

/-- The state after the `MemWrite` of WRITE. -/
abbrev stored (d : Byte) (s : State) : State :=
  logPort (.memWrite (writeIndex s) d) { s with storage := s.storage.store (writeIndex s).toNat d }

theorem execInit_next {cp sp : Bool} {c : Word} {s t : State} (h : execInit cp sp c s = .next t) :
    (cp = true ∧ argsOk sp c = true ∧ t = respond .ok 0 (populate c s)) ∨
    ((cp && argsOk sp c) = false ∧ t = raiseStatus .invalidArguments s) := by
  unfold execInit at h
  split at h
  · rename_i hok
    obtain ⟨h1, h2⟩ := (Bool.and_eq_true _ _).mp hok
    cases h
    exact .inl ⟨h1, h2, rfl⟩
  · rename_i hno
    cases h
    exact .inr ⟨Bool.eq_false_iff.2 hno, rfl⟩

theorem execInitb_next {ap sp : Bool} {c : Word} {s t : State} (h : execInitb ap sp c s = .next t) :
    (ap = true ∧ argsOk sp c = true ∧ s.allocGrant = true ∧
      t = respond .ok 0 (populate c (requestAllocator s))) ∨
    (ap = true ∧ argsOk sp c = true ∧ s.allocGrant = false ∧
      t = raiseStatus .constructionFailed (requestAllocator s)) ∨
    ((ap && argsOk sp c) = false ∧ t = raiseStatus .constructionFailed s) := by
  unfold execInitb at h
  split at h
  · rename_i hok
    obtain ⟨h1, h2⟩ := (Bool.and_eq_true _ _).mp hok
    split at h
    · rename_i hg
      cases h
      exact .inl ⟨h1, h2, hg, rfl⟩
    · rename_i hg
      cases h
      exact .inr (.inl ⟨h1, h2, Bool.eq_false_iff.2 hg, rfl⟩)
  · rename_i hno
    cases h
    exact .inr (.inr ⟨Bool.eq_false_iff.2 hno, rfl⟩)

/-- A command that needs a constructed buffer, and goes on. -/
theorem whenConfigured_next {s t : State} {k : State → Result} (h : whenConfigured s k = .next t) :
    (s.configured = true ∧ k s = .next t) ∨
    (s.configured = false ∧ t = raiseStatus .notConfigured s) := by
  unfold whenConfigured at h
  split at h
  · rename_i hc
    exact .inl ⟨hc, h⟩
  · rename_i hc
    cases h
    exact .inr ⟨Bool.eq_false_iff.2 hc, rfl⟩

theorem execWrite_next {d : Byte} {s t : State} (h : execWrite d s = .next t) :
    (s.configured = true ∧ (writeIndex s).toNat < s.storageLen ∧
      t = respond .ok 0 (advanceWrite (stored d s))) ∨
    (s.configured = false ∧ t = raiseStatus .notConfigured s) := by
  rcases whenConfigured_next h with ⟨hc, hk⟩ | hn
  · by_cases hi : (writeIndex s).toNat < s.storageLen
    · rw [withMemWrite_inside hi] at hk
      cases hk
      exact .inl ⟨hc, hi, rfl⟩
    · rw [withMemWrite_outside hi] at hk
      cases hk
  · exact .inr hn

theorem execRead_next {s t : State} (h : execRead s = .next t) :
    (s.configured = true ∧ (readIndex s).toNat < s.storageLen ∧
      t = respond .ok (zext16 (readByte s (readIndex s).toNat))
        (advanceRead (logPort (.memRead (readIndex s)) s))) ∨
    (s.configured = false ∧ t = raiseStatus .notConfigured s) := by
  rcases whenConfigured_next h with ⟨hc, hk⟩ | hn
  · by_cases hi : (readIndex s).toNat < s.storageLen
    · rw [withMemRead_inside hi] at hk
      cases hk
      exact .inl ⟨hc, hi, rfl⟩
    · rw [withMemRead_outside hi] at hk
      cases hk
  · exact .inr hn

theorem execPeek_next {o : Word} {s t : State} (h : execPeek o s = .next t) :
    (s.configured = true ∧ (peekIndex s o).toNat < s.storageLen ∧
      t = respond .ok (zext16 (readByte s (peekIndex s o).toNat))
        (logPort (.memRead (peekIndex s o)) s)) ∨
    (s.configured = false ∧ t = raiseStatus .notConfigured s) := by
  rcases whenConfigured_next h with ⟨hc, hk⟩ | hn
  · by_cases hi : (peekIndex s o).toNat < s.storageLen
    · rw [withMemRead_inside hi] at hk
      cases hk
      exact .inl ⟨hc, hi, rfl⟩
    · rw [withMemRead_outside hi] at hk
      cases hk
  · exact .inr hn

theorem execRst_next {s t : State} (h : execRst s = .next t) :
    (s.configured = true ∧ t = respond .ok 0 (discardUnread s)) ∨
    (s.configured = false ∧ t = raiseStatus .notConfigured s) := by
  rcases whenConfigured_next h with ⟨hc, hk⟩ | hn
  · cases hk
    exact .inl ⟨hc, rfl⟩
  · exact .inr hn

theorem execIsfull_next {s t : State} (h : execIsfull s = .next t) :
    (s.configured = true ∧ t = respond .ok (boolWord (full s)) s) ∨
    (s.configured = false ∧ t = raiseStatus .notConfigured s) := by
  rcases whenConfigured_next h with ⟨hc, hk⟩ | hn
  · cases hk
    exact .inl ⟨hc, rfl⟩
  · exact .inr hn

theorem execIsempty_next {s t : State} (h : execIsempty s = .next t) :
    (s.configured = true ∧ t = respond .ok (boolWord (empty s)) s) ∨
    (s.configured = false ∧ t = raiseStatus .notConfigured s) := by
  rcases whenConfigured_next h with ⟨hc, hk⟩ | hn
  · cases hk
    exact .inl ⟨hc, rfl⟩
  · exact .inr hn

theorem execFill_next {s t : State} (h : execFill s = .next t) :
    (s.configured = true ∧ t = respond .ok (fill s) s) ∨
    (s.configured = false ∧ t = raiseStatus .notConfigured s) := by
  rcases whenConfigured_next h with ⟨hc, hk⟩ | hn
  · cases hk
    exact .inl ⟨hc, rfl⟩
  · exact .inr hn

theorem execFree_next {s t : State} (h : execFree s = .next t) :
    (s.configured = true ∧ t = respond .ok (free s) s) ∨
    (s.configured = false ∧ t = raiseStatus .notConfigured s) := by
  rcases whenConfigured_next h with ⟨hc, hk⟩ | hn
  · cases hk
    exact .inl ⟨hc, rfl⟩
  · exact .inr hn

/-- What one step that goes on was: idle, hardware reset, an illegal word, or a command. -/
theorem step_next {s t : State} (h : step s = .next t) :
    (s.inputs = [] ∧ t = s) ∨
    (∃ rest, s.inputs = .hardwareReset :: rest ∧
      t = hardwareReset (acceptInput rest s.allocGrant s)) ∨
    (∃ w g rest e, s.inputs = .command w g :: rest ∧ decode w = .error e ∧
      t = raiseStatus .illegalCommand (acceptInput rest g s)) ∨
    (∃ w g rest i, s.inputs = .command w g :: rest ∧ decode w = .ok i ∧
      exec i (acceptInput rest g s) = .next t) := by
  unfold step at h
  match hin : s.inputs with
  | [] =>
    rw [accept_idle hin] at h
    cases h
    exact .inl ⟨rfl, rfl⟩
  | .hardwareReset :: rest =>
    rw [accept_reset hin] at h
    cases h
    exact .inr (.inl ⟨rest, rfl, rfl⟩)
  | .command w g :: rest =>
    rw [accept_command hin] at h
    cases hd : decode w with
    | error e =>
      rw [hd] at h
      cases h
      exact .inr (.inr (.inl ⟨w, g, rest, e, rfl, hd, rfl⟩))
    | ok i =>
      rw [hd] at h
      exact .inr (.inr (.inr ⟨w, g, rest, i, rfl, hd, h⟩))

end Sys2Proof.Machine
end

