-- ==== Sys2Proof/Laws/PerInstr.lean ====
section
/-! SUPPORT. A statement about every command as syntax: its word is accepted by the row of the opcode
map that carries its mnemonic (spec/30_encoding.md R64). One lemma per constructor. -/

namespace Sys2Proof.Laws.InOwnRow

/-- The command's word is accepted by its own row of the opcode map. -/
def Statement (i : Instr) : Prop :=
  ∃ r ∈ opcodeTable, r.mnemonic = mnemonicOf i ∧ r.accepts (encode i) = true

theorem init (cp sp : Bool) (c : Word) : Statement (.init cp sp c) := by
  refine ⟨⟨"INIT", 0x10000000, 0xFCFF0000⟩, by decide, rfl, ?_⟩
  simp only [OpcodeRow.accepts, encode, beq_iff_eq]
  ext i hi
  interval_cases i <;> simp [place]

theorem initb (ap sp : Bool) (c : Word) : Statement (.initb ap sp c) := by
  refine ⟨⟨"INITB", 0x20000000, 0xF9FF0000⟩, by decide, rfl, ?_⟩
  simp only [OpcodeRow.accepts, encode, beq_iff_eq]
  ext i hi
  interval_cases i <;> simp [place]

theorem write (d : Byte) : Statement (.write d) := by
  refine ⟨⟨"WRITE", 0x30000000, 0xFFFFFF00⟩, by decide, rfl, ?_⟩
  simp only [OpcodeRow.accepts, encode, beq_iff_eq]
  ext i hi
  interval_cases i <;> simp [place]

theorem read : Statement .read :=
  ⟨⟨"READ", 0x40000000, 0xFFFFFFFF⟩, by decide, rfl, by decide⟩

theorem peek (o : Word) : Statement (.peek o) := by
  refine ⟨⟨"PEEK", 0x50000000, 0xFFFF0000⟩, by decide, rfl, ?_⟩
  simp only [OpcodeRow.accepts, encode, beq_iff_eq]
  ext i hi
  interval_cases i <;> simp [place]

theorem rst : Statement .rst :=
  ⟨⟨"RST", 0x60000000, 0xFFFFFFFF⟩, by decide, rfl, by decide⟩

theorem isfull : Statement .isfull :=
  ⟨⟨"ISFULL", 0x70000000, 0xFFFFFFFF⟩, by decide, rfl, by decide⟩

theorem isempty : Statement .isempty :=
  ⟨⟨"ISEMPTY", 0x80000000, 0xFFFFFFFF⟩, by decide, rfl, by decide⟩

theorem fill : Statement .fill :=
  ⟨⟨"FILL", 0x90000000, 0xFFFFFFFF⟩, by decide, rfl, by decide⟩

theorem free : Statement .free :=
  ⟨⟨"FREE", 0xA0000000, 0xFFFFFFFF⟩, by decide, rfl, by decide⟩

end Sys2Proof.Laws.InOwnRow
end

