-- ==== Sys2Proof/Machine/Assembler.lean ====
section
/-! DEFINITION. The spelling of the textual form (spec/30_encoding.md R70, R71): one command a line,
mnemonics in either case, `;` before a comment, numbers decimal or `0x` hexadecimal, and the annotation
`[grant=<0|1>]` of an INITB line. What a line means as a command is `assemble` of Decode.lean. -/

namespace Sys2Proof.Machine

/-- The words of the textual form: mnemonics and operand names. -/
inductive Keyword where
  | init | initb | write | read | peek | rst | isfull | isempty | fill | free
  | cp | ap | sp | cap | grant
  deriving DecidableEq, Repr

inductive Token where
  | word (k : Keyword)
  | number (n : Nat)
  | equals
  | comma
  | openBracket
  | closeBracket
  deriving DecidableEq, Repr

/-- What a line of text is: nothing but a comment, an assembly error, or a command line with the allocator's
answer where it is annotated. -/
inductive LineText where
  | blank
  | error
  | line (l : AsmLine) (grant : Option Bool)
  deriving DecidableEq, Repr

/-- A letter in lower case, the other characters as they are. -/
def lowerCase (c : Char) : Char :=
  if 65 ≤ c.toNat && c.toNat ≤ 90 then Char.ofNat (c.toNat + 32) else c

/-- The digits of the two number notations. DESIGN CHOICE: hexadecimal ones in either case, which R70 leaves
open (log 20). -/
def digitValue (base : Nat) (c : Char) : Option Nat :=
  let n := (lowerCase c).toNat
  if 48 ≤ n && n ≤ 57 then some (n - 48)
  else if base = 16 && 97 ≤ n && n ≤ 102 then some (n - 87)
  else none

/-- Digits, most significant first, after the value read so far. -/
def digitsValue (base : Nat) : Nat → List Char → Option Nat
  | v, [] => some v
  | v, c :: cs =>
    match digitValue base c with
    | some d => digitsValue base (v * base + d) cs
    | none => none

/-- A number, decimal or `0x` hexadecimal (R70). DESIGN CHOICE: the prefix in lower case only, as R70 writes
it (log 20). -/
def numberValue : List Char → Option Nat
  | '0' :: 'x' :: c :: cs => digitsValue 16 0 (c :: cs)
  | c :: cs => digitsValue 10 0 (c :: cs)
  | [] => none

/-- The words of the form, as they are spelled in lower case. -/
def keywordTable : List (List Char × Keyword) :=
  [ (['i', 'n', 'i', 't'], .init), (['i', 'n', 'i', 't', 'b'], .initb),
    (['w', 'r', 'i', 't', 'e'], .write), (['r', 'e', 'a', 'd'], .read),
    (['p', 'e', 'e', 'k'], .peek), (['r', 's', 't'], .rst),
    (['i', 's', 'f', 'u', 'l', 'l'], .isfull), (['i', 's', 'e', 'm', 'p', 't', 'y'], .isempty),
    (['f', 'i', 'l', 'l'], .fill), (['f', 'r', 'e', 'e'], .free),
    (['c', 'p'], .cp), (['a', 'p'], .ap), (['s', 'p'], .sp), (['c', 'a', 'p'], .cap),
    (['g', 'r', 'a', 'n', 't'], .grant) ]

/-- A run of letters and digits as a token. Mnemonics are case-insensitive (R70). DESIGN CHOICE: so are the
operand names cp, ap, sp, cap and grant, of which R70 does not say it (log 20). -/
def wordToken (cs : List Char) : Option Token :=
  match numberValue cs with
  | some n => some (.number n)
  | none =>
    match keywordTable.find? (fun e => e.1 == cs.map lowerCase) with
    | some e => some (.word e.2)
    | none => none

/-- The token of the characters gathered so far, last first, before the tokens that follow. -/
def endWord (gathered : List Char) (rest : Option (List Token)) : Option (List Token) :=
  match gathered, rest with
  | [], r => r
  | _ :: _, none => none
  | g :: gs, some ts =>
    match wordToken (g :: gs).reverse with
    | some t => some (t :: ts)
    | none => none

/-- The tokens of a line up to its comment; spaces only separate. -/
def tokens (gathered : List Char) : List Char → Option (List Token)
  | [] => endWord gathered (some [])
  | c :: cs =>
    if c = ';' then endWord gathered (some [])
    else if c = ' ' then endWord gathered (tokens [] cs)
    else if c = '=' then endWord gathered ((tokens [] cs).map (Token.equals :: ·))
    else if c = ',' then endWord gathered ((tokens [] cs).map (Token.comma :: ·))
    else if c = '[' then endWord gathered ((tokens [] cs).map (Token.openBracket :: ·))
    else if c = ']' then endWord gathered ((tokens [] cs).map (Token.closeBracket :: ·))
    else tokens (c :: gathered) cs

/-- `name=<number>`, and the tokens after it. -/
def operandField (k : Keyword) : List Token → Option (Nat × List Token)
  | .word j :: .equals :: .number n :: rest => if j = k then some (n, rest) else none
  | _ => none

/-- A comma, and the tokens after it. -/
def afterComma : List Token → Option (List Token)
  | .comma :: rest => some rest
  | _ => none

/-- The three operands of a construction line, its reference named `k`: `k=.., sp=.., cap=..` (R70). -/
def constructionOperands (k : Keyword) (ts : List Token) : Option (Nat × Nat × Nat × List Token) := do
  let (reference, ts) ← operandField k ts
  let ts ← afterComma ts
  let (storage, ts) ← operandField .sp ts
  let ts ← afterComma ts
  let (capacity, ts) ← operandField .cap ts
  return (reference, storage, capacity, ts)

/-- The annotation of an INITB line, none where it is left out (R70). -/
def grantNote : List Token → Option (Option Bool)
  | [] => some none
  | [.openBracket, .word .grant, .equals, .number 0, .closeBracket] => some (some false)
  | [.openBracket, .word .grant, .equals, .number 1, .closeBracket] => some (some true)
  | _ => none

/-- An INIT line, in full or in the shorthand of R71. -/
def initLine : List Token → LineText
  | [.number c] => .line (.initShort c) none
  | ts =>
    match constructionOperands .cp ts with
    | some (a, b, c, []) => .line (.init a b c) none
    | _ => .error

/-- An INITB line, in full or in the shorthand of R71, with its annotation. -/
def initbLine (ts : List Token) : LineText :=
  match ts with
  | .number c :: rest =>
    match grantNote rest with
    | some g => .line (.initbShort c) g
    | none => .error
  | ts =>
    match constructionOperands .ap ts with
    | some (a, b, c, rest) =>
      match grantNote rest with
      | some g => .line (.initb a b c) g
      | none => .error
    | none => .error

/-- The line that the tokens spell. -/
def lineOfTokens : List Token → LineText
  | [] => .blank
  | .word .init :: ts => initLine ts
  | .word .initb :: ts => initbLine ts
  | [.word .write, .number n] => .line (.write n) none
  | [.word .read] => .line .read none
  | [.word .peek, .number n] => .line (.peek n) none
  | [.word .rst] => .line .rst none
  | [.word .isfull] => .line .isfull none
  | [.word .isempty] => .line .isempty none
  | [.word .fill] => .line .fill none
  | [.word .free] => .line .free none
  | _ => .error

/-- One line of text (R70); an operand outside its range is an assembly error. -/
def readLine (text : List Char) : LineText :=
  match tokens [] text with
  | none => .error
  | some ts =>
    match lineOfTokens ts with
    | .line l g => if l.wellFormed then .line l g else .error
    | other => other

/-- The command a line of text assembles to, none for a blank or erroneous line (R70, R71). -/
def assembleText (text : List Char) : Option Instr :=
  match readLine text with
  | .line l _ => assemble l
  | .error => none
  | .blank => none

end Sys2Proof.Machine
end

