-- ==== Sys2Proof/Tests/Slice0.lean ====
section
/-! SUPPORT. The model's own tests. Expected results are those of spec/95_test_vectors.md, named in each
comment, or are written out from the formats of spec/30_encoding.md R62. The second half gives every
obligation that has hypotheses a witness. -/

namespace Sys2Proof.Tests

open Sys2Proof Sys2Proof.Machine

/-! ### Small states -/

/-- A configured block of capacity `2 ^ k` with the given cursors, array length and listed cells. -/
def buffer (k : Nat) (w r : Word) (len : Nat) (cells : Memory) : State :=
  { State.reset with
    configured := true
    capacity := BitVec.ofNat 16 (2 ^ k)
    capacityMask := BitVec.ofNat 16 (2 ^ k - 1)
    writeCursor := w
    readCursor := r
    storage := cells
    storageLen := len }

/-- `s` with one command word presented. -/
def given (w : CmdWord) (grant : Bool) (s : State) : State := { s with inputs := [.command w grant] }

/-- The cells of the vectors T-D9 to T-D15. -/
def cells4 : Memory := [(0, 0x0C), (1, 0x0D), (2, 0x0A), (3, 0x0B)]

/-- What an outcome shows: the responses, `configured`, `capacity` and the cursors. -/
def seen : Result → Option (List RspWord × Bool × Word × Word × Word)
  | .next t => some (t.responses, t.configured, t.capacity, t.writeCursor, t.readCursor)
  | .fault _ => none
  | .refused _ => none

/-- The responses of an outcome. -/
def answers : Result → Option (List RspWord)
  | .next t => some t.responses
  | .fault _ => none
  | .refused _ => none

/-- The storage and the port events of an outcome. -/
def traffic : Result → Option (Memory × List PortEvent)
  | .next t => some (t.storage, t.portLog)
  | .fault _ => none
  | .refused _ => none

/-- The outcome is a next state. -/
def goesOn : Result → Bool
  | .next _ => true
  | .fault _ => false
  | .refused _ => false

theorem goesOn_next {r : Result} (h : goesOn r = true) : ∃ t, r = .next t := by
  cases r with
  | next t => exact ⟨t, rfl⟩
  | fault f => cases h
  | refused f => cases h

theorem buffer_invariant {k len : Nat} {cells : Memory} (w r : Word) (hk : k < 16)
    (hw : cells.wf = true) (hb : ∀ c ∈ cells, c.1 < len) : Invariant (buffer k w r len cells) := by
  refine ⟨⟨hw, hb⟩, fun _ => ⟨⟨k, hk, ?_⟩, ?_⟩, by simp [buffer, State.reset], by simp [buffer, State.reset]⟩
  · interval_cases k <;> rfl
  · interval_cases k <;> rfl

/-! ### Well-formedness: one ill-formed line for each check, and its largest well-formed value -/

theorem test_wellFormed_presence :
    (AsmLine.init 2 1 4).wellFormed = false ∧ (AsmLine.init 1 2 4).wellFormed = false ∧
    (AsmLine.initb 2 1 4).wellFormed = false ∧ (AsmLine.initb 1 2 4).wellFormed = false ∧
    (AsmLine.init 1 1 4).wellFormed = true := by decide

theorem test_wellFormed_word :
    (AsmLine.init 1 1 65536).wellFormed = false ∧ (AsmLine.initb 1 1 65536).wellFormed = false ∧
    (AsmLine.peek 65536).wellFormed = false ∧ (AsmLine.initShort 65536).wellFormed = false ∧
    (AsmLine.initbShort 65536).wellFormed = false ∧ (AsmLine.peek 65535).wellFormed = true := by decide

theorem test_wellFormed_byte :
    (AsmLine.write 256).wellFormed = false ∧ (AsmLine.write 255).wellFormed = true := by decide

/-- An ill-formed line assembles to no command. -/
theorem test_assemble_refuses :
    assemble (.write 256) = none ∧ assemble (.init 2 1 4) = none ∧ assemble (.initShort 65536) = none := by
  decide

/-- Lines of text as R70 and R71 spell them: operands, either case, both number notations, a comment, the
shorthand and the annotation. -/
theorem test_readLine :
    readLine "INIT cp=1, sp=1, cap=4".toList = .line (.init 1 1 4) none ∧
    readLine "INITB ap=1, sp=1, cap=8 [grant=1]".toList = .line (.initb 1 1 8) (some true) ∧
    assembleText "write 0x41 ; append".toList = some (.write 0x41) ∧
    assembleText "INIT 4".toList = some (.init true true 4) := by decide

/-- An operand outside its range and an operand of another command are assembly errors; a comment is blank. -/
theorem test_readLine_refuses :
    readLine "PEEK 65536".toList = .error ∧ readLine "INIT ap=1, sp=1, cap=4".toList = .error ∧
    readLine "READ 1".toList = .error ∧ readLine "; nothing".toList = .blank := by decide

/-- The check of a command word refuses an ill-formed one of each format (T-E4, T-E14, T-E17, T-E21, T-E32). -/
theorem test_legalWord_refuses :
    legalWord 0x14000004 = false ∧ legalWord 0x30000100 = false ∧ legalWord 0x40000001 = false ∧
    legalWord 0x50010000 = false ∧ legalWord 0x00000000 = false ∧ legalWord 0x13000004 = true := by decide

/-! ### Decoding: words written out bit by bit from R62 -/

/-- Format C: `op`, 0, `AP`, `SP`, `CP`, eight zeros, sixteen capacity bits. -/
theorem test_decode_init :
    decode 0b0001_0_0_1_1_00000000_0000000000000100 = .ok (.init true true 4) ∧
    decode 0b0001_0_0_0_1_00000000_0000000000000100 = .ok (.init true false 4) ∧
    decode 0b0001_0_0_1_0_00000000_1111111111111111 = .ok (.init false true 65535) := by decide

theorem test_decode_initb :
    decode 0b0010_0_1_1_0_00000000_0000000000001000 = .ok (.initb true true 8) ∧
    decode 0b0010_0_1_0_0_00000000_0000000000001000 = .ok (.initb true false 8) ∧
    decode 0b0010_0_0_1_0_00000000_1000000000000000 = .ok (.initb false true 32768) := by decide

/-- Format D: `op`, twenty zeros, eight data bits. -/
theorem test_decode_write :
    decode 0b0011_00000000000000000000_01000001 = .ok (.write 0x41) ∧
    decode 0b0011_00000000000000000000_11111111 = .ok (.write 0xFF) := by decide

/-- Format O: `op`, twelve zeros, sixteen offset bits. -/
theorem test_decode_peek :
    decode 0b0101_000000000000_0000000000000101 = .ok (.peek 5) ∧
    decode 0b0101_000000000000_1111111111111111 = .ok (.peek 65535) := by decide

/-- Format N: `op`, twenty-eight zeros. -/
theorem test_decode_no_operand :
    decode 0b0100_0000000000000000000000000000 = .ok .read ∧
    decode 0b0110_0000000000000000000000000000 = .ok .rst ∧
    decode 0b0111_0000000000000000000000000000 = .ok .isfull ∧
    decode 0b1000_0000000000000000000000000000 = .ok .isempty ∧
    decode 0b1001_0000000000000000000000000000 = .ok .fill ∧
    decode 0b1010_0000000000000000000000000000 = .ok .free := by decide

/-- Stray bits at the edges of the fields that must be 0 (T-E5, T-E6, T-E10, T-E11, T-E15, T-E18, T-E21,
T-E23, T-E25, T-E27, T-E29, T-E31). -/
theorem test_decode_stray :
    decode 0x18000004 = .error .strayBit ∧ decode 0x13010004 = .error .strayBit ∧
    decode 0x28000008 = .error .strayBit ∧ decode 0x26800008 = .error .strayBit ∧
    decode 0x31000041 = .error .strayBit ∧ decode 0x48000000 = .error .strayBit ∧
    decode 0x50010000 = .error .strayBit ∧ decode 0x60000001 = .error .strayBit ∧
    decode 0x70008000 = .error .strayBit ∧ decode 0x80100000 = .error .strayBit ∧
    decode 0x90000002 = .error .strayBit ∧ decode 0xA4000000 = .error .strayBit := by decide

/-- Unassigned opcodes (T-E32 to T-E39). -/
theorem test_decode_unassigned :
    decode 0x00000000 = .error .unassignedOpcode ∧ decode 0x0FFFFFFF = .error .unassignedOpcode ∧
    decode 0xB0000000 = .error .unassignedOpcode ∧ decode 0xC0000000 = .error .unassignedOpcode ∧
    decode 0xD0000000 = .error .unassignedOpcode ∧ decode 0xE0000000 = .error .unassignedOpcode ∧
    decode 0xF0000000 = .error .unassignedOpcode ∧ decode 0xFFFFFFFF = .error .unassignedOpcode := by decide

/-- The encoder writes the words of the worked examples of R80, R81, R90 and R92. -/
theorem test_encode :
    encode (.init true true 4) = 0x13000004 ∧ encode (.init false true 4) = 0x12000004 ∧
    encode (.initb true true 8) = 0x26000008 ∧ encode (.initb false true 8) = 0x22000008 ∧
    encode (.write 0x41) = 0x30000041 ∧ encode (.peek 5) = 0x50000005 := by decide

/-- The response words named in R68. -/
theorem test_response_words :
    rspWord .ok 0x41 = 0x00000041 ∧ rspWord .invalidArguments 0 = 0x00010000 ∧
    rspWord .constructionFailed 0 = 0x00020000 ∧ rspWord .illegalCommand 0 = 0x00030000 ∧
    rspWord .notConfigured 0 = 0x00040000 := by decide

/-! ### Arithmetic (T-A1 to T-A22) -/

theorem test_arithmetic :
    add16 65535 1 = 0 ∧ add16 6 65535 = 5 ∧ inc16 65535 = 0 ∧ sub16 1 65534 = 3 ∧ sub16 4 65535 = 5 ∧
    sub16 16384 49152 = 32768 ∧ and16 65534 7 = 6 ∧ and16 12345 0 = 0 := by decide

theorem test_ispow2 :
    ispow2 1 = true ∧ ispow2 32768 = true ∧ ispow2 0 = false ∧ ispow2 3 = false ∧ ispow2 49152 = false ∧
    ispow2 65535 = false := by decide

/-! ### One step of each command -/

/-- T-C3: the largest capacity. -/
theorem test_init_largest :
    seen (step (given 0x13008000 false State.reset)) = some ([0x00000000], true, 32768, 0, 0) := by decide

/-- T-C24: a failed re-construction leaves the old buffer. -/
theorem test_init_rejects :
    seen (step (given 0x13000006 false (buffer 3 9 3 8 []))) = some ([0x00010000], true, 8, 9, 3) := by
  decide

/-- T-C26: granted, on a configured block. -/
theorem test_initb_granted :
    seen (step (given 0x26000010 true (buffer 3 9 3 8 []))) = some ([0x00000000], true, 16, 0, 0) := by
  decide

/-- T-C15 and T-C18: refused after a request; bad arguments without one. -/
theorem test_initb_refused :
    answers (step (given 0x26000008 false State.reset)) = some [0x00020000] ∧
    traffic (step (given 0x26000008 false State.reset)) = some ([], [.allocReq]) ∧
    traffic (step (given 0x26000006 true State.reset)) = some ([], []) := by decide

/-- T-D3: the cursor wraps. -/
theorem test_write_wraps :
    seen (step (given 0x300000FF false (buffer 2 65535 65533 4 cells4))) =
      some ([0x00000000], true, 4, 0, 65533) ∧
    traffic (step (given 0x300000FF false (buffer 2 65535 65533 4 cells4))) =
      some ([(0, 0x0C), (1, 0x0D), (2, 0x0A), (3, 0xFF)], [.memWrite 3 0xFF]) := by decide

/-- T-D4: writing at full overwrites the oldest byte. -/
theorem test_write_full :
    seen (step (given 0x30000005 false (buffer 2 4 0 4 cells4))) = some ([0x00000000], true, 4, 5, 0) ∧
    traffic (step (given 0x30000005 false (buffer 2 4 0 4 cells4))) =
      some ([(0, 0x05), (1, 0x0D), (2, 0x0A), (3, 0x0B)], [.memWrite 0 0x05]) := by decide

/-- T-D7: the cursor wraps. -/
theorem test_read_wraps :
    seen (step (given 0x40000000 false (buffer 2 2 65535 4 cells4))) = some ([0x0000000B], true, 4, 2, 0) := by
  decide

/-- T-D8: reading at empty returns the stale byte and advances. -/
theorem test_read_empty :
    seen (step (given 0x40000000 false (buffer 2 7 7 4 cells4))) = some ([0x0000000B], true, 4, 7, 8) := by
  decide

/-- T-D9: an offset beyond the fill wraps inside the window. -/
theorem test_peek_beyond_fill :
    seen (step (given 0x50000005 false (buffer 2 10 6 4 cells4))) =
      some ([0x0000000B], true, 4, 10, 6) := by decide

/-- T-D14: the sum crosses 65536. -/
theorem test_peek_sum_wraps :
    seen (step (given 0x50000002 false (buffer 2 2 65534 4 cells4))) =
      some ([0x0000000C], true, 4, 2, 65534) := by decide

/-- T-R3: out of overrun; the write cursor stays. -/
theorem test_rst :
    seen (step (given 0x60000000 false (buffer 2 9 4 4 cells4))) = some ([0x00000000], true, 4, 9, 9) ∧
    traffic (step (given 0x60000000 false (buffer 2 9 4 4 cells4))) = some (cells4, []) := by decide

/-- T-Q18 and T-Q6: full across the wrap; not full in overrun. -/
theorem test_isfull :
    answers (step (given 0x70000000 false (buffer 15 16384 49152 32768 []))) = some [0x00000001] ∧
    answers (step (given 0x70000000 false (buffer 2 5 0 4 []))) = some [0x00000000] := by decide

/-- T-Q11 and T-Q7. -/
theorem test_isempty :
    answers (step (given 0x80000000 false (buffer 2 65535 65535 4 []))) = some [0x00000001] ∧
    answers (step (given 0x80000000 false (buffer 2 0 1 4 []))) = some [0x00000000] := by decide

/-- T-Q9 and T-Q16. -/
theorem test_fill :
    answers (step (given 0x90000000 false (buffer 2 2 65535 4 []))) = some [0x00000003] ∧
    answers (step (given 0x90000000 false (buffer 15 32768 0 32768 []))) = some [0x00008000] := by decide

/-- T-Q10 and T-Q7. -/
theorem test_free :
    answers (step (given 0xA0000000 false (buffer 3 65535 65534 8 []))) = some [0x00000007] ∧
    answers (step (given 0xA0000000 false (buffer 2 0 1 4 []))) = some [0x00000005] := by decide

/-- T-S1 to T-S11: before a construction every command but INIT and INITB answers NOT_CONFIGURED, and decoding
comes first. -/
theorem test_unconfigured :
    answers (step (given 0x30000041 false State.reset)) = some [0x00040000] ∧
    answers (step (given 0x40000000 false State.reset)) = some [0x00040000] ∧
    answers (step (given 0x50000000 false State.reset)) = some [0x00040000] ∧
    answers (step (given 0x60000000 false State.reset)) = some [0x00040000] ∧
    answers (step (given 0x70000000 false State.reset)) = some [0x00040000] ∧
    answers (step (given 0x80000000 false State.reset)) = some [0x00040000] ∧
    answers (step (given 0x90000000 false State.reset)) = some [0x00040000] ∧
    answers (step (given 0xA0000000 false State.reset)) = some [0x00040000] ∧
    answers (step (given 0x40000001 true State.reset)) = some [0x00030000] ∧
    answers (step (given 0x14000004 true State.reset)) = some [0x00030000] ∧
    answers (step (given 0x2F000003 true State.reset)) = some [0x00030000] := by decide

/-- Hardware reset (R150) clears `configured` and answers nothing. -/
theorem test_hardware_reset :
    (match step { buffer 2 7 5 4 cells4 with inputs := [.hardwareReset] } with
      | .next t => some (t.configured, t.responses, t.storage)
      | .fault _ => none
      | .refused _ => none) = some (false, [], cells4) := by decide

/-- The host's view: a table word runs as the first instruction after reset. -/
theorem test_withFetchWord :
    decodeTableWord 32 0x13000004 = some (.init true true 4) ∧
    seen (step (State.reset.withFetchWord 32 0x13000004)) = some ([0x00000000], true, 4, 0, 0) := by decide

/-! ### Witnesses: a state and operands that meet the hypotheses of each obligation, for each of its clauses -/

/-- An empty block of the least capacity over an array of one unwritten cell. -/
def least : State := buffer 0 65535 65535 1 []

/-- A block of capacity 4 in each configured class, the cursors across the 16-bit wrap, over a full array. -/
def emptyBuffer : State := buffer 2 65535 65535 4 cells4
def partialBuffer : State := buffer 2 1 65534 4 cells4
def fullBuffer : State := buffer 2 2 65534 4 cells4
def overrunBuffer : State := buffer 2 3 65534 4 cells4

/-- A full block of the greatest capacity, the array exactly as long. -/
def greatest : State := buffer 15 16384 49152 32768 []

/-- Capacity 4 bound to an array of 3 cells, both cursors at index 3. -/
def short : State := buffer 2 3 3 3 []

/-- A block not configured, over an array of 4 cells. -/
def blank : State := { buffer 2 7 5 4 cells4 with configured := false }

theorem least_invariant : Invariant least := buffer_invariant _ _ (by decide) (by decide) (by decide)
theorem empty_invariant : Invariant emptyBuffer := buffer_invariant _ _ (by decide) (by decide) (by decide)
theorem partial_invariant : Invariant partialBuffer :=
  buffer_invariant _ _ (by decide) (by decide) (by decide)
theorem full_invariant : Invariant fullBuffer := buffer_invariant _ _ (by decide) (by decide) (by decide)
theorem overrun_invariant : Invariant overrunBuffer :=
  buffer_invariant _ _ (by decide) (by decide) (by decide)
theorem greatest_invariant : Invariant greatest := buffer_invariant _ _ (by decide) (by decide) (by decide)
theorem blank_invariant : Invariant blank :=
  ⟨(buffer_invariant (k := 2) (len := 4) (cells := cells4) 7 5 (by decide) (by decide) (by decide)).1,
    nofun, nofun, nofun⟩

theorem given_invariant {s : State} (w : CmdWord) (g : Bool) (h : Invariant s) : Invariant (given w g s) := h

theorem witness_EncodeInvertsDecode :
    decode 0x1300FFFF = .ok (.init true true 65535) ∧ decode 0x22000008 = .ok (.initb false true 8) ∧
    decode 0x300000FF = .ok (.write 0xFF) ∧ decode 0x5000FFFF = .ok (.peek 65535) ∧
    decode 0xA0000000 = .ok .free := by decide

theorem witness_RowAcceptsExactlyItsCommand :
    ∃ r ∈ opcodeTable, (0x13000004 : CmdWord) &&& r.mask = r.fixed ∧ (0x14000004 : CmdWord) &&& r.mask ≠ r.fixed :=
  ⟨⟨"INIT", 0x10000000, 0xFCFF0000⟩, by decide, by decide, by decide⟩

/-- One word for each way to be refused (T-E32, T-E34, T-E29, T-E14, T-E21, T-E5, T-E4, T-E6, T-E10, T-E9, T-E11). -/
theorem witness_RefusedWordsAreUnassignedOrStray :
    (0x00000000 : CmdWord).extractLsb' 28 4 = 0x0 ∧ 0xB ≤ ((0xB0000000 : CmdWord).extractLsb' 28 4).toNat ∧
    (0x90000002 : CmdWord).extractLsb' 0 28 ≠ 0 ∧ (0x30000100 : CmdWord).extractLsb' 8 20 ≠ 0 ∧
    (0x50010000 : CmdWord).extractLsb' 16 12 ≠ 0 ∧ (0x18000004 : CmdWord).getLsbD 27 = true ∧
    (0x14000004 : CmdWord).getLsbD 26 = true ∧ (0x13010004 : CmdWord).extractLsb' 16 8 ≠ 0 ∧
    (0x28000008 : CmdWord).getLsbD 27 = true ∧ (0x21000008 : CmdWord).getLsbD 24 = true ∧
    (0x26800008 : CmdWord).extractLsb' 16 8 ≠ 0 := by decide

theorem witness_OperandsAreTheirFields :
    decode 0x1300FFFF = .ok (.init true true 65535) ∧ decode 0x2600FFFF = .ok (.initb true true 65535) ∧
    decode 0x300000FF = .ok (.write 0xFF) ∧ decode 0x5000FFFF = .ok (.peek 65535) := by decide

theorem witness_OpcodeRowsAreDisjoint :
    ∃ r ∈ opcodeTable, ∃ q ∈ opcodeTable,
      (0x13000004 : CmdWord) &&& r.mask = r.fixed ∧ (0x13000004 : CmdWord) &&& q.mask = q.fixed :=
  ⟨_, List.mem_cons_self, _, List.mem_cons_self, by decide, by decide⟩

theorem witness_ShorthandsExpand : 65535 ≤ 65535 ∧ ¬ 65536 ≤ 65535 ∧ assemble (.initShort 65536) = none := by
  decide

theorem witness_StepRunsTheDecodedCommand :
    (given 0x13000004 false State.reset).inputs = .command 0x13000004 false :: [] ∧
    decode 0x13000004 = .ok (.init true true 4) ∧
    decodeTableWord 32 0x13000004 = some (.init true true 4) := by decide

theorem witness_IllegalWordAnswersIllegalCommand :
    (given 0x14000004 true State.reset).inputs = .command 0x14000004 true :: [] ∧
    (given 0x00000000 true fullBuffer).inputs = .command 0x00000000 true :: [] ∧
    (∀ r ∈ opcodeTable, (0x14000004 : CmdWord) &&& r.mask ≠ r.fixed) ∧
    ∀ r ∈ opcodeTable, (0x00000000 : CmdWord) &&& r.mask ≠ r.fixed := by decide

theorem witness_IdleBlockKeepsItsState : fullBuffer.inputs = [] := rfl

theorem witness_HardwareResetUnconfigures :
    ({ fullBuffer with inputs := [.hardwareReset, .command 0x60000000 false] } : State).inputs =
      .hardwareReset :: [.command 0x60000000 false] := rfl

theorem witness_StepKeepsTheInvariant :
    Invariant (given 0x30000041 false fullBuffer) ∧
    (∃ t, step (given 0x30000041 false fullBuffer) = .next t) ∧
    Invariant (given 0x13008000 false blank) ∧
    ∃ t, step (given 0x13008000 false blank) = .next t :=
  ⟨given_invariant _ _ full_invariant, goesOn_next (by decide), given_invariant _ _ blank_invariant,
    goesOn_next (by decide)⟩

/-- A legal word, an illegal word, and a word whose step is the model fault. -/
theorem witness_OneResponsePerCommandWord :
    (given 0x40000000 false fullBuffer).inputs = .command 0x40000000 false :: [] ∧
    (given 0x40000001 false fullBuffer).inputs = .command 0x40000001 false :: [] ∧
    (given 0x40000000 false short).inputs = .command 0x40000000 false :: [] ∧
    step (given 0x40000000 false short) = .fault .storageOutOfRange ∧ short.configured = true ∧
    decode 0x40000000 = .ok .read ∧ short.storageLen ≤ (short.readCursor &&& short.capacityMask).toNat :=
  ⟨rfl, rfl, rfl, rfl, rfl, by decide, by decide⟩

/-- The least and the greatest capacity; an absent reference of each kind; 0 and 32769. -/
theorem witness_InitConstructsOrRejects :
    (0x13000004 : CmdWord).extractLsb' 28 4 = 0x1 ∧ (0x14000004 : CmdWord).extractLsb' 28 4 = 0x1 ∧
    0 < 16 ∧ 15 < 16 ∧ (∀ k, k < 16 → (0 : Word).toNat ≠ 2 ^ k) ∧
    ∀ k, k < 16 → (32769 : Word).toNat ≠ 2 ^ k := by decide

theorem witness_InitbConstructsOrFails :
    (0x26000008 : CmdWord).extractLsb' 28 4 = 0x2 ∧ (0x21000008 : CmdWord).extractLsb' 28 4 = 0x2 ∧
    0 < 16 ∧ 15 < 16 ∧ ({ greatest with allocGrant := true } : State).allocGrant = true ∧
    greatest.allocGrant = false ∧ (∀ k, k < 16 → (0 : Word).toNat ≠ 2 ^ k) ∧
    ∀ k, k < 16 → (6 : Word).toNat ≠ 2 ^ k := by decide

/-- The last cell of the array, the first index beyond it, an unconfigured block; a legal and a stray word. -/
theorem witness_WriteStoresThenAdvances :
    (greatest.configured = true ∧ emptyBuffer.configured = true ∧
      (emptyBuffer.writeCursor &&& emptyBuffer.capacityMask).toNat < emptyBuffer.storageLen) ∧
    (short.configured = true ∧ short.storageLen ≤ (short.writeCursor &&& short.capacityMask).toNat) ∧
    State.reset.configured = false ∧
    (0x30000041 : CmdWord).extractLsb' 28 4 = 0x3 ∧ (0x30000100 : CmdWord).extractLsb' 28 4 = 0x3 := by decide

theorem witness_ReadReturnsThenAdvances :
    (emptyBuffer.configured = true ∧
      (emptyBuffer.readCursor &&& emptyBuffer.capacityMask).toNat < emptyBuffer.storageLen) ∧
    (short.configured = true ∧ short.storageLen ≤ (short.readCursor &&& short.capacityMask).toNat) ∧
    State.reset.configured = false ∧
    (0x40000000 : CmdWord).extractLsb' 28 4 = 0x4 ∧ (0x40000001 : CmdWord).extractLsb' 28 4 = 0x4 := by decide

theorem witness_PeekReturnsWithoutRemoving :
    (fullBuffer.configured = true ∧
      ((fullBuffer.readCursor + 65535) &&& fullBuffer.capacityMask).toNat < fullBuffer.storageLen) ∧
    (short.configured = true ∧
      short.storageLen ≤ ((short.readCursor + 0) &&& short.capacityMask).toNat) ∧
    State.reset.configured = false ∧
    (0x50000005 : CmdWord).extractLsb' 28 4 = 0x5 ∧ (0x50010000 : CmdWord).extractLsb' 28 4 = 0x5 := by decide

theorem witness_RstDiscardsUnreadBytes :
    overrunBuffer.configured = true ∧ State.reset.configured = false ∧
    (0x60000000 : CmdWord).extractLsb' 28 4 = 0x6 ∧ (0x60000001 : CmdWord).extractLsb' 28 4 = 0x6 := by decide

/-- Full and overrun; unconfigured. -/
theorem witness_IsfullComparesFillWithCapacity :
    greatest.configured = true ∧ overrunBuffer.configured = true ∧ State.reset.configured = false ∧
    greatest.writeCursor - greatest.readCursor = greatest.capacity ∧
    overrunBuffer.writeCursor - overrunBuffer.readCursor ≠ overrunBuffer.capacity ∧
    (0x70000000 : CmdWord).extractLsb' 28 4 = 0x7 ∧ (0x70008000 : CmdWord).extractLsb' 28 4 = 0x7 := by decide

theorem witness_IsemptyComparesTheCursors :
    emptyBuffer.configured = true ∧ fullBuffer.configured = true ∧ State.reset.configured = false ∧
    emptyBuffer.writeCursor = emptyBuffer.readCursor ∧ fullBuffer.writeCursor ≠ fullBuffer.readCursor ∧
    (0x80000000 : CmdWord).extractLsb' 28 4 = 0x8 ∧ (0x80100000 : CmdWord).extractLsb' 28 4 = 0x8 := by decide

theorem witness_FillReportsTheDifference :
    partialBuffer.configured = true ∧ partialBuffer.writeCursor.toNat < partialBuffer.readCursor.toNat ∧
    State.reset.configured = false ∧
    (0x90000000 : CmdWord).extractLsb' 28 4 = 0x9 ∧ (0x90000002 : CmdWord).extractLsb' 28 4 = 0x9 := by decide

theorem witness_FreeReportsCapacityLessFill :
    fullBuffer.configured = true ∧ overrunBuffer.configured = true ∧ State.reset.configured = false ∧
    (0xA0000000 : CmdWord).extractLsb' 28 4 = 0xA ∧ (0xA4000000 : CmdWord).extractLsb' 28 4 = 0xA := by decide

/-- Each of the three commands at the first index beyond the array, and at the last one inside. -/
theorem witness_StopsExactlyOutsideTheStorage :
    exec (.write 1) short = .fault .storageOutOfRange ∧ exec .read short = .fault .storageOutOfRange ∧
    exec (.peek 0) short = .fault .storageOutOfRange ∧ goesOn (exec (.peek 65535) short) = true ∧
    goesOn (exec (.write 1) emptyBuffer) = true ∧ goesOn (exec .read emptyBuffer) = true :=
  ⟨rfl, rfl, rfl, rfl, rfl, rfl⟩

/-- Arrays exactly as long as the capacity; an unconfigured block. -/
theorem witness_EveryCommandCompletesOverAStorageThatCovers :
    (Invariant least ∧ StorageCovers least) ∧ (Invariant greatest ∧ StorageCovers greatest) ∧
    Invariant blank ∧ blank.configured = false :=
  ⟨⟨least_invariant, by unfold StorageCovers; decide⟩, ⟨greatest_invariant, by unfold StorageCovers; decide⟩,
    blank_invariant, rfl⟩

/-- INVALID_ARGUMENTS, CONSTRUCTION_FAILED after a request, NOT_CONFIGURED; ILLEGAL_COMMAND. -/
theorem witness_NonOkStatusChangesNothing :
    answers (exec (.init true true 3) State.reset) = some (State.reset.responses ++ [0x00010000]) ∧
    answers (exec (.initb true true 8) State.reset) = some (State.reset.responses ++ [0x00020000]) ∧
    answers (exec .read State.reset) = some (State.reset.responses ++ [0x00040000]) ∧
    rspStatus 0x00010000 ≠ 0 ∧ rspStatus 0x00020000 ≠ 0 ∧ rspStatus 0x00040000 ≠ 0 ∧
    (given 0x40000001 false State.reset).inputs = .command 0x40000001 false :: [] ∧
    decode 0x40000001 = .error .strayBit := by decide

/-- Every command answers a next state: a construction, each other command, an unconfigured block. -/
theorem witness_EachRegisterHasItsWriters :
    (∃ t, exec (.init true true 4) overrunBuffer = .next t) ∧ (∃ t, exec (.write 1) fullBuffer = .next t) ∧
    (∃ t, exec .read fullBuffer = .next t) ∧ (∃ t, exec .rst fullBuffer = .next t) ∧
    ∃ t, exec .fill fullBuffer = .next t :=
  ⟨goesOn_next (by decide), goesOn_next (by decide), goesOn_next (by decide), goesOn_next (by decide),
    goesOn_next (by decide)⟩

theorem witness_AccessesOfEachCommand :
    (∃ t, exec (.write 1) fullBuffer = .next t) ∧ (∃ t, exec .read fullBuffer = .next t) ∧
    (∃ t, exec (.peek 65535) fullBuffer = .next t) ∧ (∃ t, exec (.initb true true 4) fullBuffer = .next t) ∧
    (∃ t, exec .isfull fullBuffer = .next t) ∧ ∃ t, exec (.write 1) State.reset = .next t :=
  ⟨goesOn_next (by decide), goesOn_next (by decide), goesOn_next (by decide), goesOn_next (by decide),
    goesOn_next (by decide), goesOn_next (by decide)⟩

/-- The sentinel scenario of 95_test_vectors.md E6: capacity 4 in an array of 5 cells; and an unconfigured block. -/
theorem witness_AccessesStayInTheWindow :
    (Invariant (given 0x30000005 false (buffer 2 4 0 5 [(4, 0xEE)])) ∧
      ∃ t, step (given 0x30000005 false (buffer 2 4 0 5 [(4, 0xEE)])) = .next t) ∧
    ((buffer 2 4 0 5 [(4, 0xEE)]).configured = true ∧ (buffer 2 4 0 5 [(4, 0xEE)]).capacity.toNat ≤ 4) ∧
    Invariant (given 0x30000005 false blank) ∧
    ∃ t, step (given 0x30000005 false blank) = .next t :=
  ⟨⟨given_invariant _ _ (buffer_invariant _ _ (by decide) (by decide) (by decide)), goesOn_next (by decide)⟩,
    by decide, given_invariant _ _ blank_invariant, goesOn_next (by decide)⟩

/-- Set by a construction, cleared by hardware reset. -/
theorem witness_ConfiguredHasItsWriters :
    (∃ t, step (given 0x13000001 false State.reset) = .next t ∧ State.reset.configured = false ∧
      t.configured = true) ∧
    ∃ t, step { fullBuffer with inputs := [.hardwareReset] } = .next t ∧ fullBuffer.configured = true ∧
      t.configured = false :=
  ⟨⟨_, rfl, rfl, rfl⟩, ⟨_, rfl, rfl, rfl⟩⟩

theorem witness_ConfiguredBlockInvariants :
    (Invariant least ∧ least.configured = true) ∧ (Invariant greatest ∧ greatest.configured = true) ∧
    Invariant overrunBuffer ∧ overrunBuffer.configured = true :=
  ⟨⟨least_invariant, rfl⟩, ⟨greatest_invariant, rfl⟩, overrun_invariant, rfl⟩

theorem witness_MaskIsModulo :
    (Invariant least ∧ least.configured = true) ∧ Invariant greatest ∧ greatest.configured = true :=
  ⟨⟨least_invariant, rfl⟩, greatest_invariant, rfl⟩

theorem witness_SuccessorLaw :
    (Invariant least ∧ least.configured = true) ∧ Invariant greatest ∧ greatest.configured = true :=
  ⟨⟨least_invariant, rfl⟩, greatest_invariant, rfl⟩

/-- PEEK 1 and PEEK 5 on capacity 4, as in T-D9. -/
theorem witness_OffsetLaw :
    Invariant fullBuffer ∧ fullBuffer.configured = true ∧
    (1 : Word).toNat % fullBuffer.capacity.toNat = (5 : Word).toNat % fullBuffer.capacity.toNat :=
  ⟨full_invariant, rfl, by decide⟩

/-- The two last of `capacity` positions; one below full; full. -/
theorem witness_DistinctSlots :
    (Invariant greatest ∧ greatest.configured = true ∧ 32766 < 32767 ∧ 32767 < greatest.capacity.toNat ∧
      fill greatest = greatest.capacity) ∧
    Invariant partialBuffer ∧ partialBuffer.configured = true ∧
      (fill partialBuffer).toNat + 1 = partialBuffer.capacity.toNat ∧ 2 < (fill partialBuffer).toNat :=
  ⟨⟨greatest_invariant, rfl, by decide, by decide, by decide⟩, partial_invariant, rfl, by decide, by decide⟩

theorem witness_OneSubtractionCountsIncrements : 65535 ≤ 65535 ∧ 0 ≤ 65535 := by decide

/-- Full, and the first value beyond it. -/
theorem witness_FillPlusFree :
    (fill fullBuffer).toNat = fullBuffer.capacity.toNat ∧
    overrunBuffer.capacity.toNat + 1 = (fill overrunBuffer).toNat := by decide

/-- A state of each class, the neighbours of `capacity` among them. -/
theorem witness_ClassesByFill :
    (Invariant blank ∧ fillClass blank = .unconfigured) ∧
    (Invariant emptyBuffer ∧ fillClass emptyBuffer = .empty) ∧
    (Invariant partialBuffer ∧ fillClass partialBuffer = .partialFill) ∧
    (Invariant fullBuffer ∧ fillClass fullBuffer = .full) ∧
    Invariant overrunBuffer ∧ fillClass overrunBuffer = .overrun :=
  ⟨⟨blank_invariant, by decide⟩, ⟨empty_invariant, by decide⟩, ⟨partial_invariant, by decide⟩,
    ⟨full_invariant, by decide⟩, overrun_invariant, by decide⟩

/-- A construction that succeeds and one that fails; an unconfigured block; each row of the table; an illegal word. -/
theorem witness_FillMovement :
    answers (exec (.init true true 1) overrunBuffer) = some (overrunBuffer.responses ++ [0x00000000]) ∧
    answers (exec (.init true true 0) overrunBuffer) ≠ some (overrunBuffer.responses ++ [0x00000000]) ∧
    goesOn (exec (.init true true 0) overrunBuffer) = true ∧
    goesOn (exec (.write 1) State.reset) = true ∧ goesOn (exec (.write 1) overrunBuffer) = true ∧
    goesOn (exec .read emptyBuffer) = true ∧ goesOn (exec .rst overrunBuffer) = true ∧
    goesOn (exec .free overrunBuffer) = true ∧ goesOn (answerIllegal overrunBuffer) = true := by decide

/-- WRITE, READ and RST from a state of each class, with those whose alternative is taken at its boundary. -/
theorem witness_ClassTransitions :
    (∀ s ∈ [blank, least, emptyBuffer, partialBuffer, fullBuffer, overrunBuffer], Invariant s) ∧
    (goesOn (exec (.write 1) blank) = true ∧ goesOn (exec (.write 1) least) = true ∧
      goesOn (exec (.write 1) emptyBuffer) = true ∧ goesOn (exec (.write 1) partialBuffer) = true ∧
      goesOn (exec (.write 1) fullBuffer) = true ∧ goesOn (exec (.write 1) overrunBuffer) = true) ∧
    (goesOn (exec .read blank) = true ∧ goesOn (exec .read emptyBuffer) = true ∧
      goesOn (exec .read partialBuffer) = true ∧ goesOn (exec .read fullBuffer) = true ∧
      goesOn (exec .read overrunBuffer) = true) ∧
    (goesOn (exec .rst blank) = true ∧ goesOn (exec .rst overrunBuffer) = true) ∧
    (goesOn (exec (.initb true true 4) overrunBuffer) = true ∧ goesOn (exec (.peek 9) emptyBuffer) = true) ∧
    (fillClass least = .empty ∧ least.capacity = 1 ∧ fillClass emptyBuffer = .empty ∧
      (fill partialBuffer).toNat + 1 = partialBuffer.capacity.toNat ∧
      (fill overrunBuffer).toNat = overrunBuffer.capacity.toNat + 1) := by
  refine ⟨?_, by decide, by decide, by decide, by decide, by decide⟩
  simp only [List.forall_mem_cons]
  exact ⟨blank_invariant, least_invariant, empty_invariant, partial_invariant, full_invariant, overrun_invariant,
    by simp⟩

/-- The run WRITE, READ from an empty block keeps the contracts. -/
theorem write_read_contract : contractRun [.write 0x41, .read] emptyBuffer := by
  refine ⟨.inl (by decide), fun t ht => ⟨.inl ?_, fun _ _ => trivial⟩⟩
  obtain ⟨u, hu⟩ := goesOn_next (r := exec (.write 0x41) emptyBuffer) (by decide)
  cases ht
  decide

theorem witness_ContractsKeepOutOfOverrun :
    Invariant emptyBuffer ∧ fillClass emptyBuffer ≠ .overrun ∧ contractRun [.write 0x41, .read] emptyBuffer ∧
    ∃ t, runCommands [.write 0x41, .read] emptyBuffer = .next t :=
  ⟨empty_invariant, by decide, write_read_contract, goesOn_next (by decide)⟩

theorem witness_EveryStateRecoversToEmpty :
    0 < 16 ∧ 15 < 16 ∧ overrunBuffer.configured = true ∧
    ({ overrunBuffer with allocGrant := true } : State).allocGrant = true := by decide

/-- One below full, at full, and an offset at the newest byte. -/
theorem witness_UnreadBytesAreAQueue :
    (Invariant partialBuffer ∧ partialBuffer.configured = true ∧ StorageCovers partialBuffer ∧
      (fill partialBuffer).toNat + 1 = partialBuffer.capacity.toNat ∧ (2 : Word).toNat < (fill partialBuffer).toNat) ∧
    Invariant fullBuffer ∧ fullBuffer.configured = true ∧ StorageCovers fullBuffer ∧
      0 < (fill fullBuffer).toNat ∧ (fill fullBuffer).toNat ≤ fullBuffer.capacity.toNat ∧ 15 < 16 :=
  ⟨⟨partial_invariant, rfl, by unfold StorageCovers; decide, by decide, by decide⟩,
    full_invariant, rfl, by unfold StorageCovers; decide, by decide, by decide, by decide⟩

theorem witness_FifoOrder :
    Invariant emptyBuffer ∧ emptyBuffer.configured = true ∧ StorageCovers emptyBuffer ∧ fill emptyBuffer = 0 ∧
    (∀ i ∈ [Instr.write 0x41, .read], isTransfer i = true) ∧ contractRun [.write 0x41, .read] emptyBuffer :=
  ⟨empty_invariant, rfl, by unfold StorageCovers; decide, by decide, by decide, write_read_contract⟩

theorem witness_PeekForetellsTheReads :
    (Invariant fullBuffer ∧ fullBuffer.configured = true ∧ StorageCovers fullBuffer ∧
      (3 : Word).toNat < (fill fullBuffer).toNat ∧ (fill fullBuffer).toNat ≤ fullBuffer.capacity.toNat) ∧
    Invariant partialBuffer ∧ partialBuffer.configured = true ∧ StorageCovers partialBuffer ∧
      (fill partialBuffer).toNat < partialBuffer.capacity.toNat :=
  ⟨⟨full_invariant, rfl, by unfold StorageCovers; decide, by decide, by decide⟩,
    partial_invariant, rfl, by unfold StorageCovers; decide, by decide⟩

/-- The launch state of program P2 of 95_test_vectors.md, and capacity 1. -/
theorem witness_WrapAroundScenario :
    (Invariant (buffer 3 65534 65534 8 []) ∧ (buffer 3 65534 65534 8 []).configured = true ∧
      StorageCovers (buffer 3 65534 65534 8 []) ∧ (buffer 3 65534 65534 8 []).writeCursor = 65534 ∧
      (buffer 3 65534 65534 8 []).readCursor = 65534) ∧
    Invariant (buffer 0 65534 65534 1 []) ∧ StorageCovers (buffer 0 65534 65534 1 []) :=
  ⟨⟨buffer_invariant _ _ (by decide) (by decide) (by decide), rfl, by unfold StorageCovers; decide, rfl, rfl⟩,
    buffer_invariant _ _ (by decide) (by decide) (by decide), by unfold StorageCovers; decide⟩

/-- R123's example: cursors (0, 0) and (65532, 65532) with capacity 4. -/
theorem witness_SameViewsAnswerAlike :
    SameView (buffer 2 0 0 4 cells4) (buffer 2 65532 65532 4 cells4) ∧
    SameView State.reset { State.reset with readCursor := 7, capacity := 3 } :=
  ⟨⟨rfl, rfl, fun _ => rfl, rfl,
      (buffer_invariant (k := 2) (len := 4) (cells := []) 0 0 (by decide) (by decide) (by decide)).2.1,
      (buffer_invariant (k := 2) (len := 4) (cells := []) 65532 65532 (by decide) (by decide) (by decide)).2.1,
      fun _ => ⟨rfl, by decide, by decide⟩⟩,
    ⟨rfl, rfl, fun _ => rfl, rfl, fun h => (by cases h), fun h => (by cases h), fun h => (by cases h)⟩⟩

end Sys2Proof.Tests
end

/-! SUPPORT. Proofs about the scope's step and arithmetic (spec/00_scope.md R5, R9). -/

namespace Sys2Proof.Machine

/-! ### The wrapping increment -/

/-- Increments add up: `n` of them are one 16-bit addition of `n`, however often they wrap (R9). -/
theorem iterate_inc16 (r : Word) (n : Nat) : inc16^[n] r = r + BitVec.ofNat 16 n := by
  induction n with
  | zero => simp
  | succ n ih =>
    calc inc16^[n + 1] r = inc16 (inc16^[n] r) := Function.iterate_succ_apply' inc16 n r
      _ = r + BitVec.ofNat 16 n + 1 := by rw [ih, inc16_eq]
      _ = r + BitVec.ofNat 16 (n + 1) := by simp [BitVec.add_assoc, BitVec.ofNat_add]

/-- The start cancels in a 16-bit difference, so only the distance is left (R114). -/
theorem sub16_iterate_inc16 (r : Word) (n : Nat) : sub16 (inc16^[n] r) r = BitVec.ofNat 16 n := by
  rw [iterate_inc16, sub16_eq, BitVec.add_comm, BitVec.add_sub_cancel]

/-- Settles O41: the difference is `n` modulo 65536, and `n` is below 65536. -/
theorem oneSubtractionCountsIncrements : Obligations.OneSubtractionCountsIncrements := by
  intro r n hn
  rw [sub16_iterate_inc16, BitVec.toNat_ofNat]
  exact Nat.mod_eq_of_lt (by omega)

/-! ### The step at a command word -/

/-- A step whose oldest input decodes runs the command after accepting that input (R5, R49). -/
theorem step_of_decode_ok {s : State} {w : CmdWord} {g : Bool} {rest : List HostInput} {i : Instr}
    (hin : s.inputs = .command w g :: rest) (hd : decode w = .ok i) :
    step s = exec i (acceptInput rest g s) := by
  simp only [step, accept_command hin, hd]

theorem decodeTableWord_eq_some {nbits w : Nat} {i : Instr} :
    decodeTableWord nbits w = some i ↔ decode (tableWord nbits w) = .ok i := by
  cases hd : decode (tableWord nbits w) <;> simp [decodeTableWord, hd]

/-- Accepting the word just presented gives back the state it was presented in. -/
theorem acceptInput_presentWord (w : CmdWord) (s : State) :
    acceptInput s.inputs s.allocGrant (presentWord w s) = s := rfl

/-- A word that `withFetchWord` places is the next one executed, at the state itself (log 19). -/
theorem step_withFetchWord {nbits w : Nat} {i : Instr} (h : decodeTableWord nbits w = some i)
    (s : State) : step (s.withFetchWord nbits w) = exec i s := by
  rw [State.withFetchWord, step_of_decode_ok (presentWord_inputs _ s) (decodeTableWord_eq_some.1 h),
    acceptInput_presentWord]

/-- Settles O9, by what `accept` finds at a command word that decodes. -/
theorem stepRunsTheDecodedCommand : Obligations.StepRunsTheDecodedCommand :=
  ⟨fun _ _ _ _ _ hin hd => step_of_decode_ok hin hd, fun s _ _ _ h => step_withFetchWord h s⟩

end Sys2Proof.Machine

/-! SUPPORT. Proofs about the state (spec/10_state.md; 43_wraparound_and_fill_states.md sections 3 to 5):
fill, free and the classes, who writes which register, and what of the block can be observed. -/

namespace Sys2Proof

open Machine

/-! ### Fill and free -/

theorem fill_add_free (s : State) : add16 (fill s) (free s) = s.capacity := by
  rw [add16_eq, free, sub16_eq, BitVec.add_comm, BitVec.sub_add_cancel]

theorem fill_eq_zero_iff {s : State} : fill s = 0 ↔ s.writeCursor = s.readCursor := by
  rw [fill, sub16_eq]
  bv_omega

/-- The write cursor is `fill` positions after the read cursor, across the wrap too (R114). -/
theorem readCursor_add_fill (s : State) : s.readCursor + fill s = s.writeCursor := by
  rw [fill, sub16_eq, BitVec.add_comm, BitVec.sub_add_cancel]

theorem empty_eq_true_iff {s : State} : empty s = true ↔ fill s = 0 := by
  rw [empty, beq_iff_eq, fill_eq_zero_iff]

theorem full_eq_true_iff {s : State} : full s = true ↔ fill s = s.capacity := by
  rw [full, beq_iff_eq]

/-- Up to full nothing wraps (R115). -/
theorem free_toNat_of_le {s : State} (h : (fill s).toNat ≤ s.capacity.toNat) :
    (free s).toNat = s.capacity.toNat - (fill s).toNat := by
  rw [free, sub16_eq, BitVec.toNat_sub_of_le h]

/-- Beyond full the difference wraps once (R115, D11; log 11). -/
theorem free_toNat_of_lt {s : State} (h : s.capacity.toNat < (fill s).toNat) :
    (free s).toNat = 65536 - ((fill s).toNat - s.capacity.toNat) := by
  rw [free, sub16_eq]
  bv_omega

/-- Settles O42: below and above full by whether the one 16-bit subtraction wraps. -/
theorem fillPlusFree : Obligations.FillPlusFree := by
  intro s
  have hfill := (fill s).isLt
  refine ⟨fill_add_free s, fun h => ?_, fun h => ?_⟩
  · have hfree := free_toNat_of_le h
    omega
  · have hfree := free_toNat_of_lt h
    omega

/-! ### The classes -/

theorem fillClass_eq_unconfigured_iff {s : State} :
    fillClass s = .unconfigured ↔ s.configured = false := by
  unfold fillClass
  split_ifs with hc <;> simp [hc]

theorem fillClass_eq_empty_iff {s : State} :
    fillClass s = .empty ↔ s.configured = true ∧ fill s = 0 := by
  unfold fillClass
  split_ifs with hc h0 <;> simp_all

theorem fillClass_eq_partialFill_iff {s : State} :
    fillClass s = .partialFill ↔
      s.configured = true ∧ 0 < (fill s).toNat ∧ (fill s).toNat < s.capacity.toNat := by
  unfold fillClass
  split_ifs with hc h0 hlt hcap
  · simp [h0]
  · have hpos : 0 < (fill s).toNat := by bv_omega
    simp [hc, hlt, hpos]
  · simp [hlt]
  · simp [hlt]
  · simp [hc]

/-- A block of capacity 0 would be EMPTY where its fill equals its capacity. -/
theorem fillClass_eq_full_iff {s : State} (hpos : s.configured = true → 0 < s.capacity.toNat) :
    fillClass s = .full ↔ s.configured = true ∧ fill s = s.capacity := by
  unfold fillClass
  split_ifs with hc h0 hlt hcap
  · have := hpos hc
    have hne : fill s ≠ s.capacity := by rw [h0]; bv_omega
    simp [hne]
  · have hne : fill s ≠ s.capacity := by bv_omega
    simp [hne]
  · simp [hc, hcap]
  · simp [hcap]
  · simp [hc]

theorem fillClass_eq_overrun_iff {s : State} :
    fillClass s = .overrun ↔ s.configured = true ∧ s.capacity.toNat < (fill s).toNat := by
  unfold fillClass
  split_ifs with hc h0 hlt hcap
  · simp [h0]
  · simp [hlt.le]
  · simp [hcap]
  · have hgt : s.capacity.toNat < (fill s).toNat := by bv_omega
    simp [hc, hgt]
  · simp [hc]

theorem ControlBlockOk.capacity_pos {s : State} (h : ControlBlockOk s) (hc : s.configured = true) :
    0 < s.capacity.toNat := by
  obtain ⟨⟨k, -, hk⟩, -⟩ := h hc
  rw [hk]
  exact Nat.two_pow_pos k

theorem empty_eq_false_of_fill_pos {s : State} (h : 0 < (fill s).toNat) : empty s = false := by
  rw [← Bool.not_eq_true, empty_eq_true_iff]
  bv_omega

theorem full_eq_false_of_fill_ne {s : State} (h : (fill s).toNat ≠ s.capacity.toNat) :
    full s = false := by
  rw [← Bool.not_eq_true, full_eq_true_iff]
  exact fun heq => h (congrArg BitVec.toNat heq)

/-- Settles O43: the conditions by the class tests, the derived quantities by the conditions. -/
theorem classesByFill : Obligations.ClassesByFill := by
  rintro s ⟨-, hblock, -, -⟩
  have hpos := hblock.capacity_pos
  refine ⟨fillClass_eq_unconfigured_iff, fillClass_eq_empty_iff, fillClass_eq_partialFill_iff,
    fillClass_eq_full_iff hpos, fillClass_eq_overrun_iff, fun h => ?_, fun h => ?_, fun h => ?_,
    fun h => ?_⟩
  · obtain ⟨hc, h0⟩ := fillClass_eq_empty_iff.1 h
    have hcap := hpos hc
    exact ⟨empty_eq_true_iff.2 h0, full_eq_false_of_fill_ne (by rw [h0]; exact hcap.ne),
      by simp [free, h0]⟩
  · obtain ⟨-, h0, hlt⟩ := fillClass_eq_partialFill_iff.1 h
    exact ⟨empty_eq_false_of_fill_pos h0, full_eq_false_of_fill_ne hlt.ne, free_toNat_of_le hlt.le⟩
  · obtain ⟨hc, hcap⟩ := (fillClass_eq_full_iff hpos).1 h
    exact ⟨empty_eq_false_of_fill_pos (hcap ▸ hpos hc), full_eq_true_iff.2 hcap, by simp [free, hcap]⟩
  · obtain ⟨-, hgt⟩ := fillClass_eq_overrun_iff.1 h
    exact ⟨empty_eq_false_of_fill_pos (Nat.zero_lt_of_lt hgt), full_eq_false_of_fill_ne hgt.ne',
      free_toNat_of_lt hgt⟩

/-- Settles O13: every field as `State.reset` names it. -/
theorem resetLeavesTheBlockUnconfigured : Obligations.ResetLeavesTheBlockUnconfigured :=
  ⟨rfl, fillClass_eq_unconfigured_iff.2 rfl, rfl, rfl, rfl, rfl⟩

/-! ### Who writes which register -/

/-- Settles O32, command by command: each answers one of the next states its inversion lemma lists, and
the updates these are made of write the fields that R33 names. -/
theorem eachRegisterHasItsWriters : Obligations.EachRegisterHasItsWriters := by
  intro i s t h
  cases i with
  | init cp sp c => rcases execInit_next h with ⟨-, -, rfl⟩ | ⟨-, rfl⟩ <;> simp [isConstruction]
  | initb ap sp c =>
    rcases execInitb_next h with ⟨-, -, -, rfl⟩ | ⟨-, -, -, rfl⟩ | ⟨-, rfl⟩ <;> simp [isConstruction]
  | write d => rcases execWrite_next h with ⟨-, -, rfl⟩ | ⟨-, rfl⟩ <;> simp
  | read => rcases execRead_next h with ⟨-, -, rfl⟩ | ⟨-, rfl⟩ <;> simp
  | peek o => rcases execPeek_next h with ⟨-, -, rfl⟩ | ⟨-, rfl⟩ <;> simp
  | rst => rcases execRst_next h with ⟨-, rfl⟩ | ⟨-, rfl⟩ <;> simp
  | isfull => rcases execIsfull_next h with ⟨-, rfl⟩ | ⟨-, rfl⟩ <;> simp
  | isempty => rcases execIsempty_next h with ⟨-, rfl⟩ | ⟨-, rfl⟩ <;> simp
  | fill => rcases execFill_next h with ⟨-, rfl⟩ | ⟨-, rfl⟩ <;> simp
  | free => rcases execFree_next h with ⟨-, rfl⟩ | ⟨-, rfl⟩ <;> simp

/-- What a command that answers does to `configured`: nothing, or it is a construction that succeeds,
with the one word of R80 and R81. -/
theorem exec_next_configured {i : Instr} {s t : State} (h : exec i s = .next t) :
    t.configured = s.configured ∨
      (isConstruction i = true ∧ t.configured = true ∧ t.responses = s.responses ++ [0x00000000]) := by
  cases i with
  | init cp sp c =>
    rcases execInit_next h with ⟨-, -, rfl⟩ | ⟨-, rfl⟩
    · exact .inr ⟨rfl, rfl, rfl⟩
    · exact .inl rfl
  | initb ap sp c =>
    rcases execInitb_next h with ⟨-, -, -, rfl⟩ | ⟨-, -, -, rfl⟩ | ⟨-, rfl⟩
    · exact .inr ⟨rfl, rfl, rfl⟩
    · exact .inl rfl
    · exact .inl rfl
  | _ =>
    obtain ⟨hblock, -⟩ := eachRegisterHasItsWriters _ s t h
    obtain ⟨hconf, -⟩ := hblock rfl
    exact .inl hconf

/-- The same for a step (R21). -/
theorem step_next_configured {s t : State} (h : step s = .next t) :
    t.configured = s.configured ∨
      (t.configured = false ∧ ∃ rest, s.inputs = .hardwareReset :: rest) ∨
      (t.configured = true ∧ ∃ w g rest i, s.inputs = .command w g :: rest ∧ decode w = .ok i ∧
        isConstruction i = true ∧ t.responses = s.responses ++ [0x00000000]) := by
  rcases step_next h with ⟨-, rfl⟩ | ⟨rest, hin, rfl⟩ | ⟨w, g, rest, e, -, -, rfl⟩ |
    ⟨w, g, rest, i, hin, hd, hx⟩
  · exact .inl rfl
  · exact .inr (.inl ⟨rfl, rest, hin⟩)
  · exact .inl rfl
  · rcases exec_next_configured hx with hsame | ⟨hi, ht, hr⟩
    · exact .inl hsame
    · exact .inr (.inr ⟨ht, w, g, rest, i, hin, hd, hi, hr⟩)

/-- Settles O35: of the three things a step can do to `configured`, one clears it and one sets it. -/
theorem configuredHasItsWriters : Obligations.ConfiguredHasItsWriters := by
  intro s t h
  rcases step_next_configured h with hsame | ⟨ht, hreset⟩ | ⟨ht, hconstruct⟩
  · constructor <;> intro hs ht <;> simp [hsame, hs] at ht
  · exact ⟨fun _ _ => hreset, by simp [ht]⟩
  · exact ⟨by simp [ht], fun _ _ => hconstruct⟩

/-! ### The index of a position -/

/-- The mask of a legal control block takes a position modulo the capacity (R110). -/
theorem phys_toNat {s : State} (h : ControlBlockOk s) (hc : s.configured = true) (p : Word) :
    (phys s p).toNat = p.toNat % s.capacity.toNat := by
  obtain ⟨⟨k, -, hk⟩, hmask⟩ := h hc
  rw [phys, and16_eq, BitVec.toNat_and, hmask, hk, Nat.and_two_pow_sub_one_eq_mod]

/-- The 16-bit wrap keeps the index, since the capacity divides 65536 (R112). -/
theorem phys_add {s : State} (h : ControlBlockOk s) (hc : s.configured = true) (p o : Word) :
    phys s (p + o) = phys s (phys s p + o) := by
  obtain ⟨⟨k, hlt, hk⟩, -⟩ := h hc
  have hdvd : s.capacity.toNat ∣ 2 ^ 16 := hk ▸ Nat.pow_dvd_pow 2 hlt.le
  apply BitVec.eq_of_toNat_eq
  rw [phys_toNat h hc, phys_toNat h hc, BitVec.toNat_add, BitVec.toNat_add, phys_toNat h hc,
    Nat.mod_mod_of_dvd _ hdvd, Nat.mod_mod_of_dvd _ hdvd, Nat.mod_add_mod]

theorem argsOk_capacity {sp : Bool} {c : Word} (h : argsOk sp c = true) :
    ∃ k, k < 16 ∧ c = BitVec.ofNat 16 (2 ^ k) := by
  simp only [argsOk, ispow2, Bool.and_eq_true, List.any_eq_true, List.mem_range, beq_iff_eq] at h
  obtain ⟨-, -, hpow⟩ := h
  exact hpow

/-- A capacity that passes the argument check gives a legal control block (R31). -/
theorem controlBlockOk_populate {sp : Bool} {c : Word} (h : argsOk sp c = true) (s : State) :
    ControlBlockOk (populate c s) := by
  obtain ⟨k, hk, rfl⟩ := argsOk_capacity h
  have hpow : (BitVec.ofNat 16 (2 ^ k)).toNat = 2 ^ k := by
    rw [BitVec.toNat_ofNat, Nat.mod_eq_of_lt (Nat.pow_lt_pow_right (by decide) hk)]
  have hle : (1 : Word) ≤ BitVec.ofNat 16 (2 ^ k) := by
    rw [BitVec.le_def, hpow]
    exact Nat.one_le_two_pow
  exact fun _ => ⟨⟨k, hk, hpow⟩, BitVec.toNat_sub_of_le hle⟩

/-! ### What two states of one view share (R123) -/

section SameView

variable {s t : State}

theorem SameView.inputs_eq (h : SameView s t) : s.inputs = t.inputs := by
  obtain ⟨hin, -⟩ := h
  exact hin

theorem SameView.storageLen_eq (h : SameView s t) : s.storageLen = t.storageLen := by
  obtain ⟨-, hlen, -⟩ := h
  exact hlen

theorem SameView.readByte_eq (h : SameView s t) (a : Nat) : readByte s a = readByte t a := by
  obtain ⟨-, -, hbytes, -⟩ := h
  exact hbytes a

theorem SameView.configured_eq (h : SameView s t) : s.configured = t.configured := by
  obtain ⟨-, -, -, hconf, -⟩ := h
  exact hconf

theorem SameView.blocks_ok (h : SameView s t) : ControlBlockOk s ∧ ControlBlockOk t := by
  obtain ⟨-, -, -, -, hs, ht, -⟩ := h
  exact ⟨hs, ht⟩

theorem SameView.registers (h : SameView s t) (hc : s.configured = true) :
    s.capacity = t.capacity ∧ fill s = fill t ∧ readIndex s = readIndex t := by
  obtain ⟨-, -, -, -, -, -, hregs⟩ := h
  exact hregs hc

theorem SameView.capacity_eq (h : SameView s t) (hc : s.configured = true) :
    s.capacity = t.capacity := by
  obtain ⟨hcap, -⟩ := h.registers hc
  exact hcap

theorem SameView.fill_eq (h : SameView s t) (hc : s.configured = true) : fill s = fill t := by
  obtain ⟨-, hfill, -⟩ := h.registers hc
  exact hfill

theorem SameView.readIndex_eq (h : SameView s t) (hc : s.configured = true) :
    readIndex s = readIndex t := by
  obtain ⟨-, -, hindex⟩ := h.registers hc
  exact hindex

/-- The masks agree, being one below the capacities. -/
theorem SameView.phys_eq (h : SameView s t) (hc : s.configured = true) (p : Word) :
    phys s p = phys t p := by
  obtain ⟨hs, ht⟩ := h.blocks_ok
  apply BitVec.eq_of_toNat_eq
  rw [phys_toNat hs hc, phys_toNat ht (h.configured_eq ▸ hc), h.capacity_eq hc]

/-- The same distance after the read cursors is the same index: `phys(read_cursor)` is enough to know. -/
theorem SameView.peekIndex_eq (h : SameView s t) (hc : s.configured = true) (o : Word) :
    peekIndex s o = peekIndex t o := by
  obtain ⟨hs, ht⟩ := h.blocks_ok
  calc phys s (s.readCursor + o) = phys s (readIndex s + o) := phys_add hs hc _ o
    _ = phys t (readIndex t + o) := by rw [h.phys_eq hc, h.readIndex_eq hc]
    _ = phys t (t.readCursor + o) := (phys_add ht (h.configured_eq ▸ hc) _ o).symm

/-- The write cursor stands `fill` positions after the read cursor. -/
theorem SameView.writeIndex_eq (h : SameView s t) (hc : s.configured = true) :
    writeIndex s = writeIndex t := by
  calc writeIndex s = peekIndex s (fill s) := by
        rw [writeIndex, peekIndex, add16_eq, readCursor_add_fill]
    _ = peekIndex t (fill t) := by rw [h.peekIndex_eq hc, h.fill_eq hc]
    _ = writeIndex t := by rw [writeIndex, peekIndex, add16_eq, readCursor_add_fill]

/-! ### What keeps two states of one view -/

theorem SameView.respond_both (h : SameView s t) (st : Status) (v : Word) :
    SameView (respond st v s) (respond st v t) := h

theorem SameView.logPort_both (h : SameView s t) (e : PortEvent) :
    SameView (logPort e s) (logPort e t) := h

theorem SameView.acceptInput_both (h : SameView s t) (rest : List HostInput) (g g' : Bool) :
    SameView (acceptInput rest g s) (acceptInput rest g' t) := by
  obtain ⟨-, hrest⟩ := h
  exact ⟨rfl, hrest⟩

/-- Hardware reset leaves four registers that nothing compares (R32). -/
theorem SameView.hardwareReset_both (h : SameView s t) :
    SameView (hardwareReset s) (hardwareReset t) :=
  ⟨h.inputs_eq, h.storageLen_eq, h.readByte_eq, rfl, nofun, nofun, nofun⟩

theorem SameView.populate_both (h : SameView s t) {sp : Bool} {c : Word} (hok : argsOk sp c = true) :
    SameView (populate c s) (populate c t) :=
  ⟨h.inputs_eq, h.storageLen_eq, h.readByte_eq, rfl, controlBlockOk_populate hok s,
    controlBlockOk_populate hok t, fun _ => ⟨rfl, rfl, rfl⟩⟩

theorem SameView.store_both (h : SameView s t) (a : Nat) (v : Byte) :
    SameView { s with storage := s.storage.store a v } { t with storage := t.storage.store a v } := by
  obtain ⟨hs, ht⟩ := h.blocks_ok
  refine ⟨h.inputs_eq, h.storageLen_eq, fun b => ?_, h.configured_eq, hs, ht, h.registers⟩
  rw [readByte_store, readByte_store, h.readByte_eq]

/-- Cursors may move as they like while their distance and the index of the read cursor agree. -/
theorem SameView.setCursors_both (h : SameView s t) {w r w' r' : Word}
    (hfill : s.configured = true → w - r = w' - r')
    (hindex : s.configured = true → phys s r = phys t r') :
    SameView { s with writeCursor := w, readCursor := r }
      { t with writeCursor := w', readCursor := r' } := by
  obtain ⟨hs, ht⟩ := h.blocks_ok
  exact ⟨h.inputs_eq, h.storageLen_eq, h.readByte_eq, h.configured_eq, hs, ht,
    fun hc => ⟨h.capacity_eq hc, hfill hc, hindex hc⟩⟩

theorem SameView.advanceWrite_both (h : SameView s t) :
    SameView (advanceWrite s) (advanceWrite t) := by
  refine h.setCursors_both (fun hc => ?_) h.readIndex_eq
  have hfill := h.fill_eq hc
  simp only [fill, sub16_eq] at hfill
  simp only [inc16_eq]
  bv_omega

theorem SameView.advanceRead_both (h : SameView s t) : SameView (advanceRead s) (advanceRead t) := by
  refine h.setCursors_both (fun hc => ?_) (fun hc => h.peekIndex_eq hc 1)
  have hfill := h.fill_eq hc
  simp only [fill, sub16_eq] at hfill
  simp only [inc16_eq]
  bv_omega

theorem SameView.discardUnread_both (h : SameView s t) :
    SameView (discardUnread s) (discardUnread t) :=
  h.setCursors_both (fun _ => by simp) h.writeIndex_eq

/-! ### What answers alike -/

theorem SameView.next_both (h : SameView s t) : SameAnswer s t (.next s) (.next t) :=
  ⟨⟨[], by simp⟩, ⟨[], by simp⟩, h⟩

/-- Updates that leave the two records alone answer alike when they keep one view. -/
theorem SameView.next_of_records {u v : State} (h : SameView u v)
    (hs : u.responses = s.responses ∧ u.portLog = s.portLog)
    (ht : v.responses = t.responses ∧ v.portLog = t.portLog) :
    SameAnswer s t (.next u) (.next v) :=
  ⟨⟨[], by simp [hs, ht]⟩, ⟨[], by simp [hs, ht]⟩, h⟩

theorem SameView.next_logPort (h : SameView s t) (e : PortEvent) :
    SameAnswer s t (.next (logPort e s)) (.next (logPort e t)) :=
  ⟨⟨[], by simp⟩, ⟨[e], rfl, rfl⟩, h.logPort_both e⟩

theorem SameAnswer.view {u v : State} (h : SameAnswer s t (.next u) (.next v)) : SameView u v := by
  obtain ⟨-, -, hview⟩ := h
  exact hview

/-- What two next states that answer alike go on to, they answered alike as a whole. -/
theorem SameAnswer.trans {u v : State} {p q : Result} (h : SameAnswer s t (.next u) (.next v))
    (hgo : SameAnswer u v p q) : SameAnswer s t p q := by
  obtain ⟨⟨rs, hrs, hrt⟩, ⟨es, hes, het⟩, -⟩ := h
  match p, q, hgo with
  | .next _, .next _, ⟨⟨rs', hrs', hrt'⟩, ⟨es', hes', het'⟩, hview⟩ =>
    exact ⟨⟨rs ++ rs', by rw [hrs', hrs, List.append_assoc], by rw [hrt', hrt, List.append_assoc]⟩,
      ⟨es ++ es', by rw [hes', hes, List.append_assoc], by rw [het', het, List.append_assoc]⟩, hview⟩
  | .fault _, .fault _, hsame => exact hsame
  | .refused _, .refused _, hsame => exact hsame

theorem SameView.answerOk_both (h : SameView s t) (v : Word) :
    SameAnswer s t (answerOk v s) (answerOk v t) :=
  ⟨⟨[rspWord .ok v], rfl, rfl⟩, ⟨[], by simp⟩, h.respond_both .ok v⟩

/-- The end of a command that does its work: an update of registers, then the response. -/
theorem SameView.answerOk_of_records {u v : State} (h : SameView u v)
    (hs : u.responses = s.responses ∧ u.portLog = s.portLog)
    (ht : v.responses = t.responses ∧ v.portLog = t.portLog) (w : Word) :
    SameAnswer s t (answerOk w u) (answerOk w v) :=
  (h.next_of_records hs ht).trans (h.answerOk_both w)

theorem SameView.answerStatus_both (h : SameView s t) (st : Status) :
    SameAnswer s t (answerStatus st s) (answerStatus st t) :=
  ⟨⟨[rspWord st 0], rfl, rfl⟩, ⟨[], by simp⟩, h.respond_both st 0⟩

theorem SameView.whenConfigured_both (h : SameView s t) {k k' : State → Result}
    (hk : s.configured = true → SameAnswer s t (k s) (k' t)) :
    SameAnswer s t (whenConfigured s k) (whenConfigured t k') := by
  cases hc : s.configured with
  | true =>
    rw [whenConfigured_configured hc, whenConfigured_configured (h.configured_eq ▸ hc)]
    exact hk hc
  | false =>
    rw [whenConfigured_unconfigured hc, whenConfigured_unconfigured (h.configured_eq ▸ hc)]
    exact h.answerStatus_both .notConfigured

/-- One `MemRead` of one index: the same byte, or the same fault. -/
theorem SameView.withMemRead_both (h : SameView s t) (idx : Word) {k k' : Byte → State → Result}
    (hk : ∀ b, SameAnswer (logPort (.memRead idx) s) (logPort (.memRead idx) t)
      (k b (logPort (.memRead idx) s)) (k' b (logPort (.memRead idx) t))) :
    SameAnswer s t (withMemRead idx s k) (withMemRead idx t k') := by
  by_cases hin : idx.toNat < s.storageLen
  · rw [withMemRead_inside hin, withMemRead_inside (h.storageLen_eq ▸ hin), h.readByte_eq]
    exact (h.next_logPort _).trans (hk _)
  · rw [withMemRead_outside hin, withMemRead_outside (h.storageLen_eq ▸ hin)]
    rfl

/-- One `MemWrite` of one index and byte: states of one view, or the same fault. -/
theorem SameView.withMemWrite_both (h : SameView s t) (idx : Word) (v : Byte)
    {k k' : State → Result} (hk : ∀ u w, SameView u w → SameAnswer u w (k u) (k' w)) :
    SameAnswer s t (withMemWrite idx v s k) (withMemWrite idx v t k') := by
  by_cases hin : idx.toNat < s.storageLen
  · rw [withMemWrite_inside hin, withMemWrite_inside (h.storageLen_eq ▸ hin)]
    have hstore := h.store_both idx.toNat v
    have halike : SameAnswer s t _ _ := (hstore.next_of_records ⟨rfl, rfl⟩ ⟨rfl, rfl⟩).trans
      (hstore.next_logPort (.memWrite idx v))
    exact halike.trans (hk _ _ (hstore.logPort_both _))
  · rw [withMemWrite_outside hin, withMemWrite_outside (h.storageLen_eq ▸ hin)]
    rfl

/-! ### The commands -/

/-- A query answers alike when its value is the same seen from both. -/
theorem SameView.query_both (h : SameView s t) (value : State → Word)
    (hv : s.configured = true → value s = value t) :
    SameAnswer s t (whenConfigured s fun u => answerOk (value u) u)
      (whenConfigured t fun u => answerOk (value u) u) :=
  h.whenConfigured_both fun hc => by
    rw [hv hc]
    exact h.answerOk_both (value t)

theorem SameView.full_eq (h : SameView s t) (hc : s.configured = true) : full s = full t := by
  rw [full, full, h.capacity_eq hc, h.fill_eq hc]

theorem SameView.empty_eq (h : SameView s t) (hc : s.configured = true) : empty s = empty t := by
  rw [Bool.eq_iff_iff, empty_eq_true_iff, empty_eq_true_iff, h.fill_eq hc]

theorem SameView.free_eq (h : SameView s t) (hc : s.configured = true) : free s = free t := by
  rw [free, free, h.capacity_eq hc, h.fill_eq hc]

theorem SameView.execInit_both (h : SameView s t) (cp sp : Bool) (c : Word) :
    SameAnswer s t (execInit cp sp c s) (execInit cp sp c t) := by
  unfold execInit
  split
  · rename_i hok
    obtain ⟨-, hargs⟩ := (Bool.and_eq_true _ _).mp hok
    exact (h.populate_both hargs).answerOk_of_records ⟨rfl, rfl⟩ ⟨rfl, rfl⟩ 0
  · exact h.answerStatus_both .invalidArguments

theorem SameView.execInitb_both (h : SameView s t) (hg : s.allocGrant = t.allocGrant)
    (ap sp : Bool) (c : Word) : SameAnswer s t (execInitb ap sp c s) (execInitb ap sp c t) := by
  have hasked := h.logPort_both .allocReq
  unfold execInitb
  rw [hg]
  split
  · rename_i hok
    obtain ⟨-, hargs⟩ := (Bool.and_eq_true _ _).mp hok
    refine (h.next_logPort .allocReq).trans ?_
    split
    · exact (hasked.populate_both hargs).answerOk_of_records ⟨rfl, rfl⟩ ⟨rfl, rfl⟩ 0
    · exact hasked.answerStatus_both .constructionFailed
  · exact h.answerStatus_both .constructionFailed

theorem SameView.execWrite_both (h : SameView s t) (d : Byte) :
    SameAnswer s t (execWrite d s) (execWrite d t) :=
  h.whenConfigured_both fun hc => by
    rw [h.writeIndex_eq hc]
    exact h.withMemWrite_both _ d fun u w huw =>
      huw.advanceWrite_both.answerOk_of_records ⟨rfl, rfl⟩ ⟨rfl, rfl⟩ 0

theorem SameView.execRead_both (h : SameView s t) : SameAnswer s t (execRead s) (execRead t) :=
  h.whenConfigured_both fun hc => by
    rw [h.readIndex_eq hc]
    exact h.withMemRead_both _ fun b =>
      (h.logPort_both _).advanceRead_both.answerOk_of_records ⟨rfl, rfl⟩ ⟨rfl, rfl⟩ (zext16 b)

theorem SameView.execPeek_both (h : SameView s t) (o : Word) :
    SameAnswer s t (execPeek o s) (execPeek o t) :=
  h.whenConfigured_both fun hc => by
    rw [h.peekIndex_eq hc]
    exact h.withMemRead_both _ fun b => (h.logPort_both _).answerOk_both (zext16 b)

theorem SameView.execRst_both (h : SameView s t) : SameAnswer s t (execRst s) (execRst t) :=
  h.whenConfigured_both fun _ =>
    h.discardUnread_both.answerOk_of_records ⟨rfl, rfl⟩ ⟨rfl, rfl⟩ 0

/-- Every command answers alike from two states of one view with one answer of the allocator. -/
theorem SameView.exec_both (h : SameView s t) (hg : s.allocGrant = t.allocGrant) (i : Instr) :
    SameAnswer s t (exec i s) (exec i t) := by
  cases i with
  | init cp sp c => exact h.execInit_both cp sp c
  | initb ap sp c => exact h.execInitb_both hg ap sp c
  | write d => exact h.execWrite_both d
  | read => exact h.execRead_both
  | peek o => exact h.execPeek_both o
  | rst => exact h.execRst_both
  | isfull =>
    exact h.query_both (fun u => boolWord (full u)) fun hc => congrArg boolWord (h.full_eq hc)
  | isempty =>
    exact h.query_both (fun u => boolWord (empty u)) fun hc => congrArg boolWord (h.empty_eq hc)
  | fill => exact h.query_both fill h.fill_eq
  | free => exact h.query_both free h.free_eq

/-- Every step answers alike from two states of one view, hardware reset among them (R123). -/
theorem SameView.step_both (h : SameView s t) : SameAnswer s t (step s) (step t) := by
  have hin := h.inputs_eq
  unfold step
  match hs : s.inputs with
  | [] =>
    rw [accept_idle hs, accept_idle (hin ▸ hs)]
    exact h.next_both
  | .hardwareReset :: rest =>
    rw [accept_reset hs, accept_reset (hin ▸ hs)]
    have hview := (h.acceptInput_both rest s.allocGrant t.allocGrant).hardwareReset_both
    exact hview.next_of_records ⟨rfl, rfl⟩ ⟨rfl, rfl⟩
  | .command w g :: rest =>
    have hview := h.acceptInput_both rest g g
    have haccept : SameAnswer s t (.next (acceptInput rest g s)) (.next (acceptInput rest g t)) :=
      hview.next_of_records ⟨rfl, rfl⟩ ⟨rfl, rfl⟩
    rw [accept_command hs, accept_command (hin ▸ hs)]
    cases decode w with
    | error e => exact haccept.trans (hview.answerStatus_both .illegalCommand)
    | ok i => exact haccept.trans (hview.exec_both rfl i)

end SameView

/-! ### Runs of steps -/

section Run

variable (M : Host.Core) {n : Nat} {s : M.State}

theorem run_succ_next {u : M.State} (h : M.step s = .next u) : M.run (n + 1) s = M.run n u := by
  rw [Host.Core.run, h]

theorem run_succ_fault {f : M.Fault} (h : M.step s = .fault f) : M.run (n + 1) s = .fault f := by
  rw [Host.Core.run, h]

theorem run_succ_refused {r : M.Refusal} (h : M.step s = .refused r) :
    M.run (n + 1) s = .refused r := by
  rw [Host.Core.run, h]

end Run

/-- Settles O52, by induction on the number of steps: one step answers alike and leaves states of one
view, from which the rest of the run answers alike. -/
theorem sameViewsAnswerAlike : Obligations.SameViewsAnswerAlike := by
  intro n
  induction n with
  | zero => exact fun s t h => h.next_both
  | succ n ih =>
    intro s t h
    have hstep : SameAnswer s t (step s) (step t) := h.step_both
    generalize hs : step s = p at hstep
    generalize ht : step t = q at hstep
    match p, q, hstep with
    | .next u, .next v, hgo =>
      rw [run_succ_next core hs, run_succ_next core ht]
      exact SameAnswer.trans hgo (ih u v hgo.view)
    | .fault _, .fault _, hsame =>
      rw [run_succ_fault core hs, run_succ_fault core ht]
      exact hsame
    | .refused _, .refused _, hsame =>
      rw [run_succ_refused core hs, run_succ_refused core ht]
      exact hsame

end Sys2Proof

/-! SUPPORT. Proofs about the storage port (spec/20_memory.md R41 to R46): which commands access it, where,
and what each command does when the access is inside the bound array and when it is not. -/

namespace Sys2Proof

open Machine

/-- Settles O37: the mask is one below a power of two, and a remainder is below its modulus. -/
theorem maskIsModulo : Obligations.MaskIsModulo := by
  intro s hinv hc p
  obtain ⟨-, hblock, -, -⟩ := hinv
  have hmod := phys_toNat hblock hc p
  have hlt := Nat.mod_lt p.toNat (hblock.capacity_pos hc)
  exact ⟨hmod, by omega⟩

/-! ### What answers once -/

/-- The outcome is a next state with exactly one response more than `s` (R67). -/
def AnswersOnce (s : State) (o : Result) : Prop :=
  ∃ t r, o = .next t ∧ t.responses = s.responses ++ [r]

/-- The end of a command that does its work, after updates that leave the responses alone. -/
theorem answerOk_answersOnce {s u : State} (hu : u.responses = s.responses) (v : Word) :
    AnswersOnce s (answerOk v u) :=
  ⟨_, rspWord .ok v, rfl, by simp [hu]⟩

theorem answerStatus_answersOnce {s u : State} (hu : u.responses = s.responses) (st : Status) :
    AnswersOnce s (answerStatus st u) :=
  ⟨_, rspWord st 0, rfl, by simp [hu]⟩

theorem whenConfigured_answersOnce {s : State} {k : State → Result}
    (hk : s.configured = true → AnswersOnce s (k s)) : AnswersOnce s (whenConfigured s k) := by
  cases hc : s.configured with
  | true =>
    rw [whenConfigured_configured hc]
    exact hk hc
  | false =>
    rw [whenConfigured_unconfigured hc]
    exact answerStatus_answersOnce rfl _

theorem execInit_answersOnce (cp sp : Bool) (c : Word) (s : State) :
    AnswersOnce s (execInit cp sp c s) := by
  unfold execInit
  split
  · exact answerOk_answersOnce rfl _
  · exact answerStatus_answersOnce rfl _

theorem execInitb_answersOnce (ap sp : Bool) (c : Word) (s : State) :
    AnswersOnce s (execInitb ap sp c s) := by
  unfold execInitb
  split
  · split
    · exact answerOk_answersOnce rfl _
    · exact answerStatus_answersOnce rfl _
  · exact answerStatus_answersOnce rfl _

theorem execRst_answersOnce (s : State) : AnswersOnce s (execRst s) :=
  whenConfigured_answersOnce fun _ => answerOk_answersOnce rfl 0

/-- The shape of the four queries: a value of the registers, and no update (R101 to R104). -/
theorem query_answersOnce (s : State) (value : State → Word) :
    AnswersOnce s (whenConfigured s fun u => answerOk (value u) u) :=
  whenConfigured_answersOnce fun _ => answerOk_answersOnce rfl (value s)

/-! ### Inside and outside the bound array -/

section Access

variable {s : State} {d : Byte} {o : Word}

theorem execWrite_answersOnce (hin : s.configured = true → (writeIndex s).toNat < s.storageLen) :
    AnswersOnce s (execWrite d s) :=
  whenConfigured_answersOnce fun hc => by
    rw [withMemWrite_inside (hin hc)]
    exact answerOk_answersOnce rfl 0

theorem execRead_answersOnce (hin : s.configured = true → (readIndex s).toNat < s.storageLen) :
    AnswersOnce s (execRead s) :=
  whenConfigured_answersOnce fun hc => by
    rw [withMemRead_inside (hin hc)]
    exact answerOk_answersOnce rfl _

theorem execPeek_answersOnce (hin : s.configured = true → (peekIndex s o).toNat < s.storageLen) :
    AnswersOnce s (execPeek o s) :=
  whenConfigured_answersOnce fun hc => by
    rw [withMemRead_inside (hin hc)]
    exact answerOk_answersOnce rfl _

theorem execWrite_outside (hc : s.configured = true) (hout : ¬ (writeIndex s).toNat < s.storageLen) :
    execWrite d s = .fault .storageOutOfRange := by
  rw [execWrite, whenConfigured_configured hc, withMemWrite_outside hout]

theorem execRead_outside (hc : s.configured = true) (hout : ¬ (readIndex s).toNat < s.storageLen) :
    execRead s = .fault .storageOutOfRange := by
  rw [execRead, whenConfigured_configured hc, withMemRead_outside hout]

theorem execPeek_outside (hc : s.configured = true) (hout : ¬ (peekIndex s o).toNat < s.storageLen) :
    execPeek o s = .fault .storageOutOfRange := by
  rw [execPeek, whenConfigured_configured hc, withMemRead_outside hout]

end Access

/-- The logical position of a command's one storage access on a configured block, before any increment
(R41, R45). -/
def accessPosition (s : State) : Instr → Option Word
  | .write _ => some s.writeCursor
  | .read => some s.readCursor
  | .peek o => some (s.readCursor + o)
  | _ => none

/-- A storage access of the command would be at an index that the bound array does not have (R46). -/
def AccessOutside (i : Instr) (s : State) : Prop :=
  s.configured = true ∧ ∃ p, accessPosition s i = some p ∧ s.storageLen ≤ (phys s p).toNat

/-- The commands that can be outside, each at its own index. -/
theorem accessOutside_iff {i : Instr} {s : State} :
    AccessOutside i s ↔ s.configured = true ∧
      ((∃ d, i = .write d ∧ s.storageLen ≤ (s.writeCursor &&& s.capacityMask).toNat) ∨
       (i = .read ∧ s.storageLen ≤ (s.readCursor &&& s.capacityMask).toNat) ∨
       ∃ o, i = .peek o ∧ s.storageLen ≤ ((s.readCursor + o) &&& s.capacityMask).toNat) := by
  cases i <;> simp [AccessOutside, accessPosition, phys]

theorem exec_of_accessOutside {i : Instr} {s : State} (h : AccessOutside i s) :
    exec i s = .fault .storageOutOfRange := by
  obtain ⟨hc, p, hp, hlen⟩ := h
  have hout : ¬ (phys s p).toNat < s.storageLen := Nat.not_lt.2 hlen
  cases i with
  | write d =>
    cases hp
    exact execWrite_outside hc hout
  | read =>
    cases hp
    exact execRead_outside hc hout
  | peek o =>
    cases hp
    exact execPeek_outside hc hout
  | _ => cases hp

/-- Every command that is not outside the array is executed and answered (R46, R135). -/
theorem exec_answersOnce {i : Instr} {s : State} (h : ¬ AccessOutside i s) :
    AnswersOnce s (exec i s) := by
  have hin : ∀ p, accessPosition s i = some p → s.configured = true →
      (phys s p).toNat < s.storageLen :=
    fun p hp hc => Nat.lt_of_not_le fun hlen => h ⟨hc, p, hp, hlen⟩
  cases i with
  | init cp sp c => exact execInit_answersOnce cp sp c s
  | initb ap sp c => exact execInitb_answersOnce ap sp c s
  | write d => exact execWrite_answersOnce (hin _ rfl)
  | read => exact execRead_answersOnce (hin _ rfl)
  | peek o => exact execPeek_answersOnce (hin _ rfl)
  | rst => exact execRst_answersOnce s
  | isfull => exact query_answersOnce s fun u => boolWord (full u)
  | isempty => exact query_answersOnce s fun u => boolWord (empty u)
  | fill => exact query_answersOnce s fill
  | free => exact query_answersOnce s free

/-- Settles O29: outside the array a command is the fault, and inside it is answered. -/
theorem stopsExactlyOutsideTheStorage : Obligations.StopsExactlyOutsideTheStorage := by
  intro i s
  rw [← accessOutside_iff]
  by_cases hout : AccessOutside i s
  · simp [exec_of_accessOutside hout, hout]
  · obtain ⟨t, r, hnext, -⟩ := exec_answersOnce hout
    simp [hnext, hout]

/-- An array that covers the capacity has every index that the mask forms (R42, R46). -/
theorem not_accessOutside_of_covers {s : State} (hblock : ControlBlockOk s)
    (hcover : s.configured = true → StorageCovers s) (i : Instr) : ¬ AccessOutside i s := by
  rintro ⟨hc, p, -, hlen⟩
  have hcov : s.capacity.toNat ≤ s.storageLen := hcover hc
  have hlt := Nat.mod_lt p.toNat (hblock.capacity_pos hc)
  rw [phys_toNat hblock hc] at hlen
  omega

/-- Settles O30: over such an array no command is outside, so every one is answered. -/
theorem everyCommandCompletesOverAStorageThatCovers :
    Obligations.EveryCommandCompletesOverAStorageThatCovers := by
  intro i s hinv hcover
  obtain ⟨-, hblock, -, -⟩ := hinv
  exact exec_answersOnce (not_accessOutside_of_covers hblock hcover i)

/-! ### The port events of each command -/

theorem execWrite_portLog {d : Byte} {s t : State} (h : execWrite d s = .next t) :
    t.portLog = s.portLog ++ if s.configured then [.memWrite (writeIndex s) d] else [] := by
  rcases execWrite_next h with ⟨hc, -, rfl⟩ | ⟨hc, rfl⟩ <;> simp [hc]

theorem execRead_portLog {s t : State} (h : execRead s = .next t) :
    t.portLog = s.portLog ++ if s.configured then [.memRead (readIndex s)] else [] := by
  rcases execRead_next h with ⟨hc, -, rfl⟩ | ⟨hc, rfl⟩ <;> simp [hc]

theorem execPeek_portLog {o : Word} {s t : State} (h : execPeek o s = .next t) :
    t.portLog = s.portLog ++ if s.configured then [.memRead (peekIndex s o)] else [] := by
  rcases execPeek_next h with ⟨hc, -, rfl⟩ | ⟨hc, rfl⟩ <;> simp [hc]

/-- INIT asks nothing of the ports (R80). -/
theorem execInit_portLog {cp sp : Bool} {c : Word} {s t : State} (h : execInit cp sp c s = .next t) :
    t.portLog = s.portLog := by
  rcases execInit_next h with ⟨-, -, rfl⟩ | ⟨-, rfl⟩ <;> simp

/-- INITB asks the allocator at most once (R81). -/
theorem execInitb_portLog {ap sp : Bool} {c : Word} {s t : State}
    (h : execInitb ap sp c s = .next t) :
    t.portLog = s.portLog ∨ t.portLog = s.portLog ++ [.allocReq] := by
  rcases execInitb_next h with ⟨-, -, -, rfl⟩ | ⟨-, -, -, rfl⟩ | ⟨-, rfl⟩ <;> simp

/-- RST and the queries leave the ports alone, configured or not: what their inversion lemmas say. -/
theorem portLog_of_query_next {s t u : State} {v : Word}
    (h : (s.configured = true ∧ t = respond .ok v u) ∨
      (s.configured = false ∧ t = raiseStatus .notConfigured s))
    (hu : u.portLog = s.portLog) : t.portLog = s.portLog ++ [] := by
  rcases h with ⟨-, rfl⟩ | ⟨-, rfl⟩ <;> simp [hu]

/-- Settles O33, command by command. -/
theorem accessesOfEachCommand : Obligations.AccessesOfEachCommand := by
  intro i s t h
  cases i with
  | init cp sp c => exact ⟨[], by simp [execInit_portLog h], rfl⟩
  | initb ap sp c =>
    rcases execInitb_portLog h with hnone | hreq
    · exact ⟨[], by simp [hnone], .inl rfl⟩
    · exact ⟨[.allocReq], hreq, .inr rfl⟩
  | write d => exact ⟨_, execWrite_portLog h, rfl⟩
  | read => exact ⟨_, execRead_portLog h, rfl⟩
  | peek o => exact ⟨_, execPeek_portLog h, rfl⟩
  | rst => exact ⟨[], portLog_of_query_next (execRst_next h) rfl, rfl⟩
  | isfull => exact ⟨[], portLog_of_query_next (execIsfull_next h) rfl, rfl⟩
  | isempty => exact ⟨[], portLog_of_query_next (execIsempty_next h) rfl, rfl⟩
  | fill => exact ⟨[], portLog_of_query_next (execFill_next h) rfl, rfl⟩
  | free => exact ⟨[], portLog_of_query_next (execFree_next h) rfl, rfl⟩

end Sys2Proof

/-! SUPPORT. Proofs about the command word (spec/30_encoding.md R60 to R66, R70 to R72): the opcode map, the
round trips of the decoder and the encoder, the refused words and the assembler's shorthands. -/

namespace Sys2Proof

/-! ### Fields in their places -/

/-- Masking one field of a word leaves that field, at its place. -/
theorem and_place_allOnes (w : CmdWord) (lo n : Nat) :
    w &&& place (BitVec.allOnes n) lo = place (w.extractLsb' lo n) lo := by
  ext j hj
  by_cases hlo : j < lo
  · simp [place, hlo]
  · have hback : lo + (j - lo) = j := by omega
    simp [place, hlo, hback, BitVec.getLsbD_eq_getElem hj, Bool.and_comm]

/-- A field reads back what was placed in it. -/
theorem extract_place {n lo : Nat} (v : BitVec n) (hle : lo + n ≤ 32) :
    (place v lo).extractLsb' lo n = v := by
  ext j hj
  have hlo : lo + j < 32 := by omega
  simp [place, hj, hlo]

theorem place_eq_zero_iff {n lo : Nat} {v : BitVec n} (hle : lo + n ≤ 32) :
    place v lo = 0 ↔ v = 0 := by
  constructor
  · intro h
    rw [← extract_place v hle, h]
    simp
  · rintro rfl
    simp [place]

theorem and_field_eq_zero_iff {w : CmdWord} {lo n : Nat} (hle : lo + n ≤ 32) :
    w &&& place (BitVec.allOnes n) lo = 0 ↔ w.extractLsb' lo n = 0 := by
  rw [and_place_allOnes, place_eq_zero_iff hle]

theorem and_or_eq_zero_iff {w a b : CmdWord} :
    w &&& (a ||| b) = 0 ↔ w &&& a = 0 ∧ w &&& b = 0 := by
  rw [BitVec.and_or_distrib_left]
  exact BitVec.or_eq_zero_iff

theorem extract_one_eq_zero_iff (w : CmdWord) (k : Nat) :
    w.extractLsb' k 1 = 0 ↔ w.getLsbD k = false := by
  constructor
  · intro h
    simpa using congrArg (·.getLsbD 0) h
  · intro h
    ext j hj
    obtain rfl : j = 0 := by omega
    simpa using h

theorem opField_of_toNat {w : CmdWord} {n : Nat} (h : (opField w).toNat = n) :
    opField w = BitVec.ofNat 4 n := by
  rw [← h, BitVec.ofNat_toNat, BitVec.setWidth_eq]

/-! ### What the rows of the opcode map accept -/

theorem opcodeTable_mnemonic_inj :
    ∀ r ∈ opcodeTable, ∀ q ∈ opcodeTable, r.mnemonic = q.mnemonic → r = q := by decide

/-- A row whose mask covers the opcode and the stray bits accepts the words of its opcode that have no
stray bit (R62, R64). -/
theorem masked_eq_iff {w mask fixed stray : CmdWord} {op : BitVec 4}
    (hmask : mask = 0xF0000000 ||| stray) (hapart : 0xF0000000 &&& stray = 0)
    (hfixed : fixed = place op 28) :
    w &&& mask = fixed ↔ opField w = op ∧ w &&& stray = 0 := by
  subst hmask hfixed
  have hop : w &&& 0xF0000000 = place (opField w) 28 := and_place_allOnes w 28 4
  constructor
  · intro h
    have hcovers : (0xF0000000 ||| stray).extractLsb' 28 4 = 15 := by
      rw [BitVec.extractLsb'_or]
      exact BitVec.allOnes_or
    have hfield : opField w = op :=
      (opField_of_masked h hcovers).trans (extract_place op (by decide))
    have hdisjoint : w &&& 0xF0000000 &&& stray = 0 := by
      rw [BitVec.and_assoc, hapart]
      exact BitVec.and_zero
    refine ⟨hfield, ?_⟩
    rw [← hfield, ← hop, BitVec.and_or_distrib_left] at h
    calc w &&& stray = (w &&& 0xF0000000 ||| w &&& stray) &&& stray := by
          rw [BitVec.and_or_distrib_right, hdisjoint, BitVec.and_assoc, BitVec.and_self]
          exact BitVec.zero_or.symm
      _ = 0 := by rw [h, hdisjoint]
  · rintro ⟨rfl, h⟩
    rw [BitVec.and_or_distrib_left, hop, h]
    exact BitVec.or_zero

/-- The stray bits of format C: two of the bits 27, 26 and 24, and the bits 23:16 (R62). -/
theorem and_stray_construction_eq_zero_iff {w : CmdWord} {j k : Nat} (hj : j < 32) (hk : k < 32) :
    w &&& (place (BitVec.allOnes 1) j |||
        (place (BitVec.allOnes 1) k ||| place (BitVec.allOnes 8) 16)) = 0 ↔
      w.getLsbD j = false ∧ w.getLsbD k = false ∧ w.extractLsb' 16 8 = 0 := by
  rw [and_or_eq_zero_iff, and_or_eq_zero_iff, and_field_eq_zero_iff hj, and_field_eq_zero_iff hk,
    and_field_eq_zero_iff (by decide), extract_one_eq_zero_iff, extract_one_eq_zero_iff]

theorem masked_init_iff {w : CmdWord} : w &&& 0xFCFF0000 = 0x10000000 ↔
    opField w = 1 ∧ w.getLsbD 27 = false ∧ w.getLsbD 26 = false ∧ w.extractLsb' 16 8 = 0 := by
  rw [← and_stray_construction_eq_zero_iff (j := 27) (k := 26) (by decide) (by decide)]
  exact masked_eq_iff (by decide) (by decide) (by decide)

theorem masked_initb_iff {w : CmdWord} : w &&& 0xF9FF0000 = 0x20000000 ↔
    opField w = 2 ∧ w.getLsbD 27 = false ∧ w.getLsbD 24 = false ∧ w.extractLsb' 16 8 = 0 := by
  rw [← and_stray_construction_eq_zero_iff (j := 27) (k := 24) (by decide) (by decide)]
  exact masked_eq_iff (by decide) (by decide) (by decide)

theorem masked_write_iff {w : CmdWord} : w &&& 0xFFFFFF00 = 0x30000000 ↔
    opField w = 3 ∧ w.extractLsb' 8 20 = 0 := by
  rw [← and_field_eq_zero_iff (lo := 8) (n := 20) (by decide)]
  exact masked_eq_iff (by decide) (by decide) (by decide)

theorem masked_peek_iff {w : CmdWord} : w &&& 0xFFFF0000 = 0x50000000 ↔
    opField w = 5 ∧ w.extractLsb' 16 12 = 0 := by
  rw [← and_field_eq_zero_iff (lo := 16) (n := 12) (by decide)]
  exact masked_eq_iff (by decide) (by decide) (by decide)

/-- Format N. -/
theorem masked_full_iff {w fixed : CmdWord} {op : BitVec 4} (hfixed : fixed = place op 28) :
    w &&& 0xFFFFFFFF = fixed ↔ opField w = op ∧ w.extractLsb' 0 28 = 0 := by
  rw [← and_field_eq_zero_iff (lo := 0) (n := 28) (by decide)]
  exact masked_eq_iff (by decide) (by decide) hfixed

/-- A row without operands fixes the whole word. -/
theorem decode_of_full_mask {w fixed : CmdWord} {i : Instr} (h : w &&& 0xFFFFFFFF = fixed)
    (hd : decode fixed = .ok i) : decode w = .ok i := by
  rwa [← and_full_mask w, h]

/-- A word that a row accepts decodes to a command of the row's mnemonic (R64). -/
theorem decode_of_masked {r : OpcodeRow} (hr : r ∈ opcodeTable) {w : CmdWord}
    (h : w &&& r.mask = r.fixed) : ∃ i, decode w = .ok i ∧ mnemonicOf i = r.mnemonic := by
  simp only [opcodeTable, List.mem_cons, List.not_mem_nil, or_false] at hr
  rcases hr with rfl | rfl | rfl | rfl | rfl | rfl | rfl | rfl | rfl | rfl
  · exact ⟨_, decode_init h, rfl⟩
  · exact ⟨_, decode_initb h, rfl⟩
  · exact ⟨_, decode_write h, rfl⟩
  · exact ⟨_, decode_of_full_mask h rfl, rfl⟩
  · exact ⟨_, decode_peek h, rfl⟩
  all_goals exact ⟨_, decode_of_full_mask h rfl, rfl⟩

/-- Settles O6: a word decodes to one command, whose mnemonic stands in one row. -/
theorem opcodeRowsAreDisjoint : Obligations.OpcodeRowsAreDisjoint := by
  intro r hr q hq w hrw hqw
  obtain ⟨i, hi, hir⟩ := decode_of_masked hr hrw
  obtain ⟨j, hj, hjq⟩ := decode_of_masked hq hqw
  obtain rfl : i = j := by simpa using hi.symm.trans hj
  exact opcodeTable_mnemonic_inj r hr q hq (hir.symm.trans hjq)

/-! ### The encoder -/

theorem encode_inOwnRow (i : Instr) : Laws.InOwnRow.Statement i := by
  cases i with
  | init cp sp c => exact Laws.InOwnRow.init cp sp c
  | initb ap sp c => exact Laws.InOwnRow.initb ap sp c
  | write d => exact Laws.InOwnRow.write d
  | read => exact Laws.InOwnRow.read
  | peek o => exact Laws.InOwnRow.peek o
  | rst => exact Laws.InOwnRow.rst
  | isfull => exact Laws.InOwnRow.isfull
  | isempty => exact Laws.InOwnRow.isempty
  | fill => exact Laws.InOwnRow.fill
  | free => exact Laws.InOwnRow.free

/-- The fixed bits of a command's word are those of the row that carries its mnemonic (R64). -/
theorem encode_masked {i : Instr} {r : OpcodeRow} (hr : r ∈ opcodeTable)
    (hm : mnemonicOf i = r.mnemonic) : encode i &&& r.mask = r.fixed := by
  obtain ⟨q, hq, hqm, hacc⟩ := encode_inOwnRow i
  obtain rfl : q = r := opcodeTable_mnemonic_inj q hq r hr (hqm.trans hm)
  exact beq_iff_eq.1 hacc

theorem encode_init_fields (cp sp : Bool) (c : Word) :
    bitField (encode (.init cp sp c)) 24 = cp ∧ bitField (encode (.init cp sp c)) 25 = sp ∧
      wordField (encode (.init cp sp c)) = c := by
  refine ⟨by simp [bitField, encode, place], by simp [bitField, encode, place], ?_⟩
  ext j hj
  interval_cases j <;> simp [wordField, encode, place]

theorem encode_initb_fields (ap sp : Bool) (c : Word) :
    bitField (encode (.initb ap sp c)) 26 = ap ∧ bitField (encode (.initb ap sp c)) 25 = sp ∧
      wordField (encode (.initb ap sp c)) = c := by
  refine ⟨by simp [bitField, encode, place], by simp [bitField, encode, place], ?_⟩
  ext j hj
  interval_cases j <;> simp [wordField, encode, place]

theorem encode_write_field (d : Byte) : byteField (encode (.write d)) = d := by
  ext j hj
  interval_cases j <;> simp [byteField, encode, place]

theorem encode_peek_field (o : Word) : wordField (encode (.peek o)) = o := by
  ext j hj
  interval_cases j <;> simp [wordField, encode, place]

/-- Settles O1: the word is in its own row, and each of the row's fields holds its operand. -/
theorem decodeInvertsEncode : Obligations.DecodeInvertsEncode := by
  intro i
  cases i with
  | init cp sp c =>
    have hrow := encode_masked (i := .init cp sp c) (r := ⟨"INIT", 0x10000000, 0xFCFF0000⟩)
      (by decide) rfl
    obtain ⟨hcp, hsp, hc⟩ := encode_init_fields cp sp c
    rw [decode_init hrow, hcp, hsp, hc]
  | initb ap sp c =>
    have hrow := encode_masked (i := .initb ap sp c) (r := ⟨"INITB", 0x20000000, 0xF9FF0000⟩)
      (by decide) rfl
    obtain ⟨hap, hsp, hc⟩ := encode_initb_fields ap sp c
    rw [decode_initb hrow, hap, hsp, hc]
  | write d =>
    have hrow := encode_masked (i := .write d) (r := ⟨"WRITE", 0x30000000, 0xFFFFFF00⟩)
      (by decide) rfl
    rw [decode_write hrow, encode_write_field]
  | peek o =>
    have hrow := encode_masked (i := .peek o) (r := ⟨"PEEK", 0x50000000, 0xFFFF0000⟩)
      (by decide) rfl
    rw [decode_peek hrow, encode_peek_field]
  | _ => rfl

/-! ### The fields of a decoded word -/

/-- A word is its fixed bits and its fields, put back in their places. -/
theorem masked_or_fields_init (w : CmdWord) :
    w &&& 0xFCFF0000 ||| place (BitVec.ofBool (bitField w 24)) 24 |||
      place (BitVec.ofBool (bitField w 25)) 25 ||| place (wordField w) 0 = w := by
  ext j hj
  interval_cases j <;> simp [place, bitField, wordField]

theorem masked_or_fields_initb (w : CmdWord) :
    w &&& 0xF9FF0000 ||| place (BitVec.ofBool (bitField w 26)) 26 |||
      place (BitVec.ofBool (bitField w 25)) 25 ||| place (wordField w) 0 = w := by
  ext j hj
  interval_cases j <;> simp [place, bitField, wordField]

theorem masked_or_field_write (w : CmdWord) : w &&& 0xFFFFFF00 ||| place (byteField w) 0 = w := by
  ext j hj
  interval_cases j <;> simp [place, byteField]

theorem masked_or_field_peek (w : CmdWord) : w &&& 0xFFFF0000 ||| place (wordField w) 0 = w := by
  ext j hj
  interval_cases j <;> simp [place, wordField]

/-- Settles O2: the encoder's fixed bits are the word's own where the row accepted it. -/
theorem encodeInvertsDecode : Obligations.EncodeInvertsDecode := by
  intro w i h
  rcases decode_cases h with ⟨hw, rfl⟩ | ⟨hw, rfl⟩ | ⟨hw, rfl⟩ | ⟨rfl, rfl⟩ | ⟨hw, rfl⟩ |
    ⟨rfl, rfl⟩ | ⟨rfl, rfl⟩ | ⟨rfl, rfl⟩ | ⟨rfl, rfl⟩ | ⟨rfl, rfl⟩
  · rw [encode, ← hw, masked_or_fields_init]
  · rw [encode, ← hw, masked_or_fields_initb]
  · rw [encode, ← hw, masked_or_field_write]
  · rfl
  · rw [encode, ← hw, masked_or_field_peek]
  all_goals rfl

/-- Settles O3: a row's word decodes to its command, and a decoded word is its command's encoding. -/
theorem rowAcceptsExactlyItsCommand : Obligations.RowAcceptsExactlyItsCommand := by
  intro r hr w
  constructor
  · exact decode_of_masked hr
  · rintro ⟨i, hd, hm⟩
    rw [← encodeInvertsDecode w i hd]
    exact encode_masked hr hm

theorem wordField_toNat (w : CmdWord) : (wordField w).toNat = w.toNat % 65536 := by
  simp [wordField, BitVec.extractLsb'_toNat]

theorem byteField_toNat (w : CmdWord) : (byteField w).toNat = w.toNat % 256 := by
  simp [byteField, BitVec.extractLsb'_toNat]

/-- Settles O5, row by row: the decoder takes each operand from its field. -/
theorem operandsAreTheirFields : Obligations.OperandsAreTheirFields := by
  intro w i h
  rcases decode_cases h with ⟨-, rfl⟩ | ⟨-, rfl⟩ | ⟨-, rfl⟩ | ⟨-, rfl⟩ | ⟨-, rfl⟩ |
    ⟨-, rfl⟩ | ⟨-, rfl⟩ | ⟨-, rfl⟩ | ⟨-, rfl⟩ | ⟨-, rfl⟩
  · exact ⟨rfl, rfl, wordField_toNat w⟩
  · exact ⟨rfl, rfl, wordField_toNat w⟩
  · exact byteField_toNat w
  · trivial
  · exact wordField_toNat w
  all_goals trivial

/-! ### Refused words -/

theorem decodeRow_refuses_iff {w fixed mask : CmdWord} {i : Instr} :
    (∃ e, decodeRow w fixed mask i = .error e) ↔ ¬ w &&& mask = fixed := by
  unfold decodeRow
  split
  · rename_i hw
    simp [hw]
  · rename_i hw
    simp [hw]

/-- Settles O4, along the decoder's cases: the four rows with operands, the unassigned opcodes, and the six
rows without operands. -/
theorem refusedWordsAreUnassignedOrStray : Obligations.RefusedWordsAreUnassignedOrStray := by
  intro w
  have hopField : w.extractLsb' 28 4 = opField w := rfl
  rw [hopField]
  unfold decode
  split
  case h_1 hn =>
    rw [decodeRow_refuses_iff, masked_init_iff]
    simp only [not_and_or, Bool.not_eq_false]
    simp [opField_of_toNat hn]
  case h_2 hn =>
    rw [decodeRow_refuses_iff, masked_initb_iff]
    simp only [not_and_or, Bool.not_eq_false]
    simp [opField_of_toNat hn]
  case h_3 hn =>
    rw [decodeRow_refuses_iff, masked_write_iff]
    simp [opField_of_toNat hn]
  case h_5 hn =>
    rw [decodeRow_refuses_iff, masked_peek_iff]
    simp [opField_of_toNat hn]
  case h_11 =>
    simp only [imp_false] at *
    have hunassigned : (opField w).toNat = 0 ∨ 11 ≤ (opField w).toNat := by omega
    rcases hunassigned with hzero | hhigh
    · simp [opField_of_toNat hzero]
    · simp [hhigh]
  case h_4 hn | h_6 hn | h_7 hn | h_8 hn | h_9 hn | h_10 hn =>
    have hop := opField_of_toNat hn
    rw [decodeRow_refuses_iff, masked_full_iff (op := opField w) (by rw [hop]; rfl)]
    simp [hop]

theorem decode_error_of_no_row {w : CmdWord} (h : ∀ r ∈ opcodeTable, w &&& r.mask ≠ r.fixed) :
    ∃ e, decode w = .error e := by
  cases hd : decode w with
  | error e => exact ⟨e, rfl⟩
  | ok i =>
    obtain ⟨r, hr, hm, -⟩ := encode_inOwnRow i
    exact absurd ((rowAcceptsExactlyItsCommand r hr w).2 ⟨i, hd, hm.symm⟩) (h r hr)

/-! ### Samples and shorthands -/

/-- Settles O7: each word is decoded. -/
theorem sampleWordsDecode : Obligations.SampleWordsDecode := by
  unfold Obligations.SampleWordsDecode
  decide

/-- Settles O8: a written presence bit 1 is in range and is true, so only the capacity's range is left. -/
theorem shorthandsExpand : Obligations.ShorthandsExpand := fun _ =>
  ⟨rfl, rfl, fun hcap => ⟨if_pos (decide_eq_true hcap), if_pos (decide_eq_true hcap)⟩⟩

end Sys2Proof

/-! SUPPORT. Proofs about responses (spec/30_encoding.md R65, R67 to R69) and about the invariant that every
step keeps. -/

namespace Sys2Proof

open Machine

/-! ### The response word -/

@[simp] theorem rspStatus_rspWord (st : Status) (v : Word) :
    rspStatus (rspWord st v) = statusCode st := by
  ext j hj
  interval_cases j <;> simp [rspStatus, rspWord]

@[simp] theorem rspValue_rspWord (st : Status) (v : Word) : rspValue (rspWord st v) = v := by
  ext j hj
  simp [rspValue, rspWord, hj]
  omega

theorem statusCode_toNat_le (st : Status) : (statusCode st).toNat ≤ 4 := by
  cases st <;> decide

theorem rspWord_toNat_lt (st : Status) (v : Word) : (rspWord st v).toNat < 2 ^ 19 := by
  have hcode := statusCode_toNat_le st
  have hv := v.isLt
  rw [rspWord, BitVec.toNat_or]
  apply Nat.or_lt_two_pow
  · simp only [BitVec.toNat_shiftLeft, BitVec.toNat_setWidth, Nat.shiftLeft_eq]
    omega
  · rw [BitVec.toNat_setWidth]
    omega

/-- The words that `respond` presents are legal when a status other than OK has the value 0 (R68). -/
theorem responseOk_rspWord {st : Status} {v : Word} (h : st ≠ .ok → v = 0) :
    ResponseOk (rspWord st v) := by
  refine ⟨rspWord_toNat_lt st v, ?_, ?_⟩
  · simpa using statusCode_toNat_le st
  · rw [rspStatus_rspWord, rspValue_rspWord]
    intro hcode
    apply h
    rintro rfl
    exact hcode rfl

theorem ResponseOk.high_eq_zero {r : RspWord} (h : ResponseOk r) : r.extractLsb' 19 13 = 0 := by
  obtain ⟨hlt, -, -⟩ := h
  apply BitVec.eq_of_toNat_eq
  rw [BitVec.extractLsb'_toNat, Nat.shiftRight_eq_div_pow, Nat.div_eq_of_lt hlt]
  rfl

/-! ### One legal answer -/

/-- `t` has exactly one response more than `s`, a legal one (R67 to R69). -/
def AnswersLegally (s t : State) : Prop :=
  ∃ r, ResponseOk r ∧ t.responses = s.responses ++ [r]

/-- The end of a command that does its work, after updates that leave the responses alone. -/
theorem respond_ok_answersLegally {s u : State} (hu : u.responses = s.responses) (v : Word) :
    AnswersLegally s (respond .ok v u) :=
  ⟨rspWord .ok v, responseOk_rspWord (absurd rfl), by simp [hu]⟩

theorem raiseStatus_answersLegally {s u : State} (hu : u.responses = s.responses) (st : Status) :
    AnswersLegally s (raiseStatus st u) :=
  ⟨rspWord st 0, responseOk_rspWord fun _ => rfl, by simp [hu]⟩

/-- RST and the queries, configured or not: what their inversion lemmas say. -/
theorem answersLegally_of_query_next {s t u : State} {v : Word}
    (h : (s.configured = true ∧ t = respond .ok v u) ∨
      (s.configured = false ∧ t = raiseStatus .notConfigured s))
    (hu : u.responses = s.responses) : AnswersLegally s t := by
  rcases h with ⟨-, rfl⟩ | ⟨-, rfl⟩
  · exact respond_ok_answersLegally hu v
  · exact raiseStatus_answersLegally rfl _

theorem exec_next_answersLegally {i : Instr} {s t : State} (h : exec i s = .next t) :
    AnswersLegally s t := by
  cases i with
  | init cp sp c =>
    rcases execInit_next h with ⟨-, -, rfl⟩ | ⟨-, rfl⟩
    · exact respond_ok_answersLegally rfl 0
    · exact raiseStatus_answersLegally rfl _
  | initb ap sp c =>
    rcases execInitb_next h with ⟨-, -, -, rfl⟩ | ⟨-, -, -, rfl⟩ | ⟨-, rfl⟩
    · exact respond_ok_answersLegally rfl 0
    · exact raiseStatus_answersLegally rfl _
    · exact raiseStatus_answersLegally rfl _
  | write d =>
    rcases execWrite_next h with ⟨-, -, rfl⟩ | ⟨-, rfl⟩
    · exact respond_ok_answersLegally rfl _
    · exact raiseStatus_answersLegally rfl _
  | read =>
    rcases execRead_next h with ⟨-, -, rfl⟩ | ⟨-, rfl⟩
    · exact respond_ok_answersLegally rfl _
    · exact raiseStatus_answersLegally rfl _
  | peek o =>
    rcases execPeek_next h with ⟨-, -, rfl⟩ | ⟨-, rfl⟩
    · exact respond_ok_answersLegally rfl _
    · exact raiseStatus_answersLegally rfl _
  | rst => exact answersLegally_of_query_next (execRst_next h) rfl
  | isfull => exact answersLegally_of_query_next (execIsfull_next h) rfl
  | isempty => exact answersLegally_of_query_next (execIsempty_next h) rfl
  | fill => exact answersLegally_of_query_next (execFill_next h) rfl
  | free => exact answersLegally_of_query_next (execFree_next h) rfl

/-- The legal answer, read off the bits of its word. -/
theorem AnswersLegally.exists_fields {s t : State} (h : AnswersLegally s t) :
    ∃ r, t.responses = s.responses ++ [r] ∧ r.extractLsb' 19 13 = 0 ∧
      (r.extractLsb' 16 3).toNat ≤ 4 ∧ (r.extractLsb' 16 3 ≠ 0 → r.extractLsb' 0 16 = 0) := by
  obtain ⟨r, hr, hresponses⟩ := h
  have hhigh := hr.high_eq_zero
  obtain ⟨-, hstatus, hvalue⟩ := hr
  exact ⟨r, hresponses, hhigh, hstatus, hvalue⟩

/-! ### The step at a command word -/

/-- A step whose oldest input is an illegal word answers ILLEGAL_COMMAND (R65; log 2). -/
theorem step_of_decode_error {s : State} {w : CmdWord} {g : Bool} {rest : List HostInput}
    {e : Illegal} (hin : s.inputs = .command w g :: rest) (hd : decode w = .error e) :
    step s = .next (raiseStatus .illegalCommand (acceptInput rest g s)) := by
  simp only [step, accept_command hin, hd]
  rfl

/-- Settles O10: a word of no row is illegal. -/
theorem illegalWordAnswersIllegalCommand : Obligations.IllegalWordAnswersIllegalCommand := by
  intro s w g rest hin hrows
  obtain ⟨e, hd⟩ := decode_error_of_no_row hrows
  exact step_of_decode_error hin hd

/-- Settles O16: an illegal word is answered; a command is the fault when its access is outside the array,
and is answered otherwise. -/
theorem oneResponsePerCommandWord : Obligations.OneResponsePerCommandWord := by
  intro s w g rest hin
  cases hd : decode w with
  | error e =>
    right
    have hanswer : AnswersLegally s (raiseStatus .illegalCommand (acceptInput rest g s)) :=
      raiseStatus_answersLegally rfl _
    obtain ⟨r, hr⟩ := hanswer.exists_fields
    exact ⟨_, r, step_of_decode_error hin hd, rfl, hr⟩
  | ok i =>
    have hstep := step_of_decode_ok hin hd
    by_cases hout : AccessOutside i (acceptInput rest g s)
    · left
      obtain ⟨hc, hwhich⟩ := accessOutside_iff.1 hout
      refine ⟨hstep.trans (exec_of_accessOutside hout), hc, ?_⟩
      simpa using hwhich
    · right
      obtain ⟨t, -, hnext, -⟩ := exec_answersOnce hout
      obtain ⟨-, -, -, -, -, hinputs, -, -⟩ := eachRegisterHasItsWriters i _ t hnext
      obtain ⟨r, hr⟩ := (exec_next_answersLegally hnext).exists_fields
      exact ⟨t, r, hstep.trans hnext, hinputs, hr⟩

/-! ### What a command keeps of the invariant -/

theorem storageOk_store {s : State} (h : StorageOk s) {a : Nat} (ha : a < s.storageLen) (v : Byte) :
    StorageOk { s with storage := s.storage.store a v } := by
  obtain ⟨hwf, hbound⟩ := h
  refine ⟨store_wf a v hwf, fun c hc => ?_⟩
  rcases store_mem hc with rfl | hold
  · exact ha
  · exact hbound c hold

/-- WRITE alone changes the storage, by one store inside the array (R52). -/
theorem StorageOk.exec_next {i : Instr} {s t : State} (h : StorageOk s) (hx : exec i s = .next t) :
    StorageOk t := by
  cases i with
  | write d =>
    rcases execWrite_next hx with ⟨-, hidx, rfl⟩ | ⟨-, rfl⟩
    · exact storageOk_store h hidx d
    · exact h
  | _ =>
    obtain ⟨-, -, -, hstorage, hlen, -⟩ := eachRegisterHasItsWriters _ s t hx
    rw [StorageOk, hstorage (by simp), hlen]
    exact h

/-- The constructions alone write the control block, with a capacity that passed the check (R82). -/
theorem ControlBlockOk.exec_next {i : Instr} {s t : State} (h : ControlBlockOk s)
    (hx : exec i s = .next t) : ControlBlockOk t := by
  cases i with
  | init cp sp c =>
    rcases execInit_next hx with ⟨-, hok, rfl⟩ | ⟨-, rfl⟩
    · exact controlBlockOk_populate hok s
    · exact h
  | initb ap sp c =>
    rcases execInitb_next hx with ⟨-, hok, -, rfl⟩ | ⟨-, -, -, rfl⟩ | ⟨-, rfl⟩
    · exact controlBlockOk_populate hok s
    · exact h
    · exact h
  | _ =>
    obtain ⟨hblock, -⟩ := eachRegisterHasItsWriters _ s t hx
    obtain ⟨hconf, hcap, hmask⟩ := hblock rfl
    rw [ControlBlockOk, hconf, hcap, hmask]
    exact h

theorem forall_responseOk_of_answersLegally {s t : State} (hs : ∀ r ∈ s.responses, ResponseOk r)
    (h : AnswersLegally s t) : ∀ r ∈ t.responses, ResponseOk r := by
  obtain ⟨r, hr, hresponses⟩ := h
  rw [hresponses]
  exact List.forall_mem_append.2 ⟨hs, List.forall_mem_singleton.2 hr⟩

theorem ControlBlockOk.capacity_le {s : State} (h : ControlBlockOk s) (hc : s.configured = true) :
    s.capacity.toNat ≤ 32768 := by
  obtain ⟨⟨k, hlt, hk⟩, -⟩ := h hc
  calc s.capacity.toNat = 2 ^ k := hk
    _ ≤ 2 ^ 15 := Nat.pow_le_pow_right (by decide) (by omega)

theorem ControlBlockOk.phys_lt_capacity {s : State} (h : ControlBlockOk s)
    (hc : s.configured = true) (p : Word) : (phys s p).toNat < s.capacity.toNat := by
  rw [phys_toNat h hc]
  exact Nat.mod_lt _ (h.capacity_pos hc)

/-- The one access of a configured block (R44). -/
theorem indexBelow_of_mem_access {s : State} {n : Nat} {e access : PortEvent}
    (he : e ∈ if s.configured then [access] else [])
    (h : s.configured = true → indexBelow n access) : indexBelow n e := by
  split at he
  · rename_i hc
    obtain rfl := List.mem_singleton.1 he
    exact h hc
  · cases he

/-- A bound on every index that the mask forms bounds every index that a command puts on the port. -/
theorem exec_next_portLog {i : Instr} {s t : State} {n : Nat} (hx : exec i s = .next t)
    (hn : s.configured = true → ∀ p, (phys s p).toNat < n) :
    ∃ es, t.portLog = s.portLog ++ es ∧ ∀ e ∈ es, indexBelow n e := by
  obtain ⟨es, hlog, hes⟩ := accessesOfEachCommand i s t hx
  refine ⟨es, hlog, fun e he => ?_⟩
  cases i with
  | write d =>
    rw [hes] at he
    exact indexBelow_of_mem_access he fun hc => hn hc s.writeCursor
  | read =>
    rw [hes] at he
    exact indexBelow_of_mem_access he fun hc => hn hc s.readCursor
  | peek o =>
    rw [hes] at he
    exact indexBelow_of_mem_access he fun hc => hn hc (s.readCursor + o)
  | initb ap sp c =>
    rcases hes with rfl | rfl
    · cases he
    · obtain rfl := List.mem_singleton.1 he
      trivial
  | _ =>
    obtain rfl : es = [] := hes
    cases he

theorem Invariant.exec_next {i : Instr} {s t : State} (h : Invariant s) (hx : exec i s = .next t) :
    Invariant t := by
  obtain ⟨hstorage, hblock, hresponses, hports⟩ := h
  have hphys : s.configured = true → ∀ p, (phys s p).toNat < 32768 := fun hc p =>
    (hblock.phys_lt_capacity hc p).trans_le (hblock.capacity_le hc)
  obtain ⟨es, hlog, hes⟩ := exec_next_portLog hx hphys
  refine ⟨hstorage.exec_next hx, hblock.exec_next hx,
    forall_responseOk_of_answersLegally hresponses (exec_next_answersLegally hx), ?_⟩
  rw [hlog]
  exact List.forall_mem_append.2 ⟨hports, hes⟩

/-- Settles O15, by what a step that goes on was: idle, hardware reset, an illegal word, or a command. -/
theorem stepKeepsTheInvariant : Obligations.StepKeepsTheInvariant := by
  intro s t hinv h
  rcases step_next h with ⟨-, rfl⟩ | ⟨rest, -, rfl⟩ | ⟨w, g, rest, e, -, -, rfl⟩ |
    ⟨w, g, rest, i, -, -, hx⟩
  · exact hinv
  · obtain ⟨hstorage, -, hresponses, hports⟩ := hinv
    exact ⟨hstorage, nofun, hresponses, hports⟩
  · obtain ⟨hstorage, hblock, hresponses, hports⟩ := hinv
    exact ⟨hstorage, hblock,
      forall_responseOk_of_answersLegally hresponses (raiseStatus_answersLegally rfl _), hports⟩
  · have haccepted : Invariant (acceptInput rest g s) := hinv
    exact haccepted.exec_next hx

end Sys2Proof

/-! SUPPORT. Proofs about the construction commands (spec/40_construction.md R80 to R83): the argument check,
the encodings of INIT and INITB, and their outcomes. -/

namespace Sys2Proof

open Machine

/-! ### The argument check -/

/-- The sixteen powers of two fit a word (R9). -/
theorem two_pow_toNat {k : Nat} (hk : k < 16) : (BitVec.ofNat 16 (2 ^ k)).toNat = 2 ^ k := by
  rw [BitVec.toNat_ofNat, Nat.mod_eq_of_lt (Nat.pow_lt_pow_right (by decide) hk)]

theorem eq_two_pow_iff {c : Word} {k : Nat} (hk : k < 16) :
    c = BitVec.ofNat 16 (2 ^ k) ↔ c.toNat = 2 ^ k := by
  rw [← BitVec.toNat_inj, two_pow_toNat hk]

theorem ispow2_eq_true_iff {c : Word} : ispow2 c = true ↔ ∃ k, k < 16 ∧ c.toNat = 2 ^ k := by
  simp only [ispow2, Bool.and_eq_true, bne_iff_ne, List.any_eq_true, List.mem_range, beq_iff_eq]
  constructor
  · rintro ⟨-, k, hk, hc⟩
    exact ⟨k, hk, (eq_two_pow_iff hk).1 hc⟩
  · rintro ⟨k, hk, hc⟩
    refine ⟨?_, k, hk, (eq_two_pow_iff hk).2 hc⟩
    rintro rfl
    exact (Nat.two_pow_pos k).ne hc

/-- The check for zero adds nothing, as no power of two is zero (R82). -/
theorem argsOk_eq_true_iff {sp : Bool} {c : Word} :
    argsOk sp c = true ↔ sp = true ∧ ∃ k, k < 16 ∧ c.toNat = 2 ^ k := by
  rw [← ispow2_eq_true_iff]
  simp only [argsOk, ispow2, Bool.and_eq_true, and_assoc, and_self_left]

theorem argsOk_two_pow {k : Nat} (hk : k < 16) : argsOk true (BitVec.ofNat 16 (2 ^ k)) = true :=
  argsOk_eq_true_iff.2 ⟨rfl, k, hk, two_pow_toNat hk⟩

/-- What a construction rejects, `p` the presence bit of its control block or allocator (R80, R81). -/
theorem present_and_argsOk_eq_false_iff {p sp : Bool} {c : Word} :
    (p && argsOk sp c) = false ↔ p = false ∨ sp = false ∨ ∀ k, k < 16 → c.toNat ≠ 2 ^ k := by
  rw [Bool.and_eq_false_iff, ← Bool.not_eq_true (argsOk sp c), argsOk_eq_true_iff, not_and_or,
    Bool.not_eq_true]
  simp only [not_exists, not_and]

/-- The list of R82 is the powers of two with exponents 0 to 15. -/
theorem sixteen_capacities_eq_map :
    [1, 2, 4, 8, 16, 32, 64, 128, 256, 512, 1024, 2048, 4096, 8192, 16384, 32768] =
      (List.range 16).map (2 ^ ·) := by decide

/-- Settles O18: the check asks for a power of two, and the list holds the powers of two below 65536. -/
theorem argumentCheckPassesSixteenCapacities : Obligations.ArgumentCheckPassesSixteenCapacities := by
  intro sp c
  rw [argsOk_eq_true_iff, sixteen_capacities_eq_map]
  simp only [List.mem_map, List.mem_range, eq_comm]

/-! ### The encodings -/

/-- Opcode 0x1 picks the row of INIT (R64, R72). -/
theorem decode_of_opField_init {w : CmdWord} (h : opField w = 0x1) :
    decode w = decodeRow w 0x10000000 0xFCFF0000
      (.init (bitField w 24) (bitField w 25) (wordField w)) := by
  simp [decode, h]

/-- Opcode 0x2 picks the row of INITB (R64, R72). -/
theorem decode_of_opField_initb {w : CmdWord} (h : opField w = 0x2) :
    decode w = decodeRow w 0x20000000 0xF9FF0000
      (.initb (bitField w 26) (bitField w 25) (wordField w)) := by
  simp [decode, h]

/-! ### The outcomes -/

/-- The five registers that a construction writes, the mask beside the power of two it comes from. -/
theorem populate_two_pow (s : State) (k : Nat) :
    populate (BitVec.ofNat 16 (2 ^ k)) s = { s with
      configured := true
      capacity := BitVec.ofNat 16 (2 ^ k)
      capacityMask := BitVec.ofNat 16 (2 ^ k - 1)
      writeCursor := 0
      readCursor := 0 } := by
  have hmask : sub16 (BitVec.ofNat 16 (2 ^ k)) 1 = BitVec.ofNat 16 (2 ^ k - 1) :=
    BitVec.ofNat_sub_ofNat_of_le _ _ (by decide) Nat.one_le_two_pow
  rw [populate, hmask]

section Outcome

variable {p sp : Bool} {c : Word} {s : State}

theorem exec_init_accepted (h : argsOk sp c = true) :
    exec (.init true sp c) s = .next (respond .ok 0 (populate c s)) :=
  if_pos h

theorem exec_init_rejected (h : (p && argsOk sp c) = false) :
    exec (.init p sp c) s = .next (raiseStatus .invalidArguments s) :=
  if_neg (Bool.eq_false_iff.1 h)

theorem exec_initb_granted (h : argsOk sp c = true) (hg : s.allocGrant = true) :
    exec (.initb true sp c) s = .next (respond .ok 0 (populate c (requestAllocator s))) :=
  (if_pos h).trans (if_pos hg)

theorem exec_initb_refused (h : argsOk sp c = true) (hg : s.allocGrant = false) :
    exec (.initb true sp c) s = .next (raiseStatus .constructionFailed (requestAllocator s)) :=
  (if_pos h).trans (if_neg (Bool.eq_false_iff.1 hg))

/-- Whatever the allocator's line says, it is not asked. -/
theorem exec_initb_rejected (h : (p && argsOk sp c) = false) :
    exec (.initb p sp c) s = .next (raiseStatus .constructionFailed s) :=
  if_neg (Bool.eq_false_iff.1 h)

end Outcome

/-- Settles O19: INIT's row, and its two outcomes by the argument check. -/
theorem initConstructsOrRejects : Obligations.InitConstructsOrRejects := by
  refine ⟨fun _ => decode_of_opField_init, fun s k hk => ?_, fun s cp sp c h => ?_⟩
  · rw [exec_init_accepted (argsOk_two_pow hk), populate_two_pow]
    rfl
  · rw [exec_init_rejected (present_and_argsOk_eq_false_iff.2 h)]
    rfl

/-- Settles O20: INITB's row, and its three outcomes by the argument check and the allocator's answer. -/
theorem initbConstructsOrFails : Obligations.InitbConstructsOrFails := by
  refine ⟨fun _ => decode_of_opField_initb, fun s k hk hg => ?_, fun s k hk hg => ?_,
    fun s ap sp c h => ?_⟩
  · rw [exec_initb_granted (argsOk_two_pow hk) hg, populate_two_pow]
    rfl
  · rw [exec_initb_refused (argsOk_two_pow hk) hg]
    rfl
  · rw [exec_initb_rejected (present_and_argsOk_eq_false_iff.2 h)]
    rfl

end Sys2Proof

/-! SUPPORT. Proofs about the data transfer commands (spec/41_data_transfer.md R90 to R92): the encodings of
WRITE, READ and PEEK, their outcomes, and the unread bytes as a queue. -/

namespace Sys2Proof

open Machine

/-! ### Offsets -/

section Offset

variable {s : State} (h : ControlBlockOk s) (hc : s.configured = true)
include h hc

/-- The 16-bit wrap of a sum is not seen at the index (R112). -/
theorem phys_add_toNat (p o : Word) :
    (phys s (p + o)).toNat = (p.toNat + o.toNat) % s.capacity.toNat := by
  obtain ⟨⟨k, hlt, hk⟩, -⟩ := h hc
  have hdvd : s.capacity.toNat ∣ 2 ^ 16 := hk ▸ Nat.pow_dvd_pow 2 hlt.le
  rw [phys_toNat h hc, BitVec.toNat_add, Nat.mod_mod_of_dvd _ hdvd]

theorem peekIndex_eq_of_mod_eq {o q : Word}
    (hmod : o.toNat % s.capacity.toNat = q.toNat % s.capacity.toNat) :
    peekIndex s o = peekIndex s q := by
  apply BitVec.eq_of_toNat_eq
  rw [peekIndex, peekIndex, add16_eq, add16_eq, phys_add_toNat h hc, phys_add_toNat h hc,
    Nat.add_mod, hmod, ← Nat.add_mod]

/-- Up to `capacity` consecutive positions stand in distinct cells (R117). -/
theorem phys_add_inj {p o q : Word} (ho : o.toNat < s.capacity.toNat)
    (hq : q.toNat < s.capacity.toNat) (heq : phys s (p + o) = phys s (p + q)) : o = q := by
  have hmod : p.toNat + o.toNat ≡ p.toNat + q.toNat [MOD s.capacity.toNat] := by
    rw [Nat.ModEq, ← phys_add_toNat h hc, ← phys_add_toNat h hc, heq]
  exact BitVec.eq_of_toNat_eq ((Nat.ModEq.add_left_cancel' _ hmod).eq_of_lt_of_lt ho hq)

/-- An array that covers the capacity has the cell of every position (R42, R46). -/
theorem phys_lt_storageLen (hcov : StorageCovers s) (p : Word) : (phys s p).toNat < s.storageLen :=
  (h.phys_lt_capacity hc p).trans_le hcov

end Offset

/-- Settles O39: the index of a sum is the sum modulo the capacity, and PEEK depends on its offset through
its index alone. -/
theorem offsetLaw : Obligations.OffsetLaw := by
  rintro s ⟨-, hblock, -, -⟩ hc
  refine ⟨fun p o => ?_, fun o q hmod => ?_⟩
  · rw [add16_eq, phys_add_toNat hblock hc, phys_toNat hblock hc, Nat.add_mod]
  · simp only [exec, execPeek, whenConfigured_configured hc, peekIndex_eq_of_mod_eq hblock hc hmod]

/-! ### The encodings -/

/-- A row without operands accepts one word (R64). -/
theorem decodeRow_full_mask (w fixed : CmdWord) (i : Instr) :
    decodeRow w fixed 0xFFFFFFFF i = if w = fixed then .ok i else .error .strayBit := by
  rw [decodeRow, and_full_mask]

/-- Opcode 0x3 picks the row of WRITE (R64, R72). -/
theorem decode_of_opField_write {w : CmdWord} (h : opField w = 0x3) :
    decode w = decodeRow w 0x30000000 0xFFFFFF00 (.write (byteField w)) := by
  simp [decode, h]

/-- Opcode 0x4 picks the row of READ (R64, R72). -/
theorem decode_of_opField_read {w : CmdWord} (h : opField w = 0x4) :
    decode w = decodeRow w 0x40000000 0xFFFFFFFF .read := by
  simp [decode, h]

/-- Opcode 0x5 picks the row of PEEK (R64, R72). -/
theorem decode_of_opField_peek {w : CmdWord} (h : opField w = 0x5) :
    decode w = decodeRow w 0x50000000 0xFFFF0000 (.peek (wordField w)) := by
  simp [decode, h]

/-! ### The outcomes -/

/-- Every command but the constructions needs a constructed buffer (R131). -/
theorem exec_unconfigured {i : Instr} {s : State} (hi : isConstruction i = false)
    (hc : s.configured = false) : exec i s = .next (raiseStatus .notConfigured s) := by
  cases i with
  | init cp sp c => cases hi
  | initb ap sp c => cases hi
  | _ =>
    simp only [exec, execWrite, execRead, execPeek, execRst, execIsfull, execIsempty, execFill,
      execFree, whenConfigured_unconfigured hc, answerStatus]

section Configured

variable {s : State} (hc : s.configured = true)
include hc

theorem exec_write_inside {d : Byte} (hin : (writeIndex s).toNat < s.storageLen) :
    exec (.write d) s = .next (respond .ok 0 (advanceWrite (stored d s))) := by
  rw [exec, execWrite, whenConfigured_configured hc, withMemWrite_inside hin]
  rfl

theorem exec_read_inside (hin : (readIndex s).toNat < s.storageLen) :
    exec .read s = .next (respond .ok (zext16 (readByte s (readIndex s).toNat))
      (advanceRead (logPort (.memRead (readIndex s)) s))) := by
  rw [exec, execRead, whenConfigured_configured hc, withMemRead_inside hin]
  rfl

theorem exec_peek_inside {o : Word} (hin : (peekIndex s o).toNat < s.storageLen) :
    exec (.peek o) s = .next (respond .ok (zext16 (readByte s (peekIndex s o).toNat))
      (logPort (.memRead (peekIndex s o)) s)) := by
  rw [exec, execPeek, whenConfigured_configured hc, withMemRead_inside hin]
  rfl

theorem exec_rst_configured : exec .rst s = .next (respond .ok 0 (discardUnread s)) := by
  rw [exec, execRst, whenConfigured_configured hc]
  rfl

end Configured

/-- The word of a status OK is its value (R67, R68). -/
theorem rspWord_ok (v : Word) : rspWord .ok v = v.setWidth 32 := by
  simp [rspWord, statusCode]

theorem rspWord_ok_zext16 (b : Byte) : rspWord .ok (zext16 b) = b.setWidth 32 := by
  rw [rspWord_ok, zext16]
  ext j hj
  simp

theorem inc16_eq_ofNat (p : Word) : inc16 p = BitVec.ofNat 16 (p.toNat + 1) := by
  rw [inc16_eq, BitVec.ofNat_add, BitVec.ofNat_toNat, BitVec.setWidth_eq]
  rfl

/-- Settles O21: WRITE's row, its one store and its increment inside the array, the fault outside it, and
the status before a construction. -/
theorem writeStoresThenAdvances : Obligations.WriteStoresThenAdvances := by
  refine ⟨fun _ => decode_of_opField_write, fun s d => ⟨fun hc hin => ?_, fun hc hout => ?_, ?_⟩⟩
  · refine ⟨s.storage.store (writeIndex s).toNat d, ?_, fun a => readByte_store s _ a d⟩
    rw [exec_write_inside hc hin, ← inc16_eq_ofNat]
    rfl
  · exact exec_of_accessOutside ⟨hc, s.writeCursor, rfl, hout⟩
  · exact exec_unconfigured rfl

/-- Settles O22: READ's row, its one load and its increment inside the array, the fault outside it, and the
status before a construction. -/
theorem readReturnsThenAdvances : Obligations.ReadReturnsThenAdvances := by
  refine ⟨fun w hop => ?_, fun s => ⟨fun hc hin => ?_, fun hc hout => ?_, ?_⟩⟩
  · rw [decode_of_opField_read hop, decodeRow_full_mask]
  · rw [exec_read_inside hc hin, respond, rspWord_ok_zext16, ← inc16_eq_ofNat]
    rfl
  · exact exec_of_accessOutside ⟨hc, s.readCursor, rfl, hout⟩
  · exact exec_unconfigured rfl

/-- Settles O23: PEEK's row, its one load inside the array, the fault outside it, and the status before a
construction. -/
theorem peekReturnsWithoutRemoving : Obligations.PeekReturnsWithoutRemoving := by
  refine ⟨fun _ => decode_of_opField_peek, fun s o => ⟨fun hc hin => ?_, fun hc hout => ?_, ?_⟩⟩
  · rw [exec_peek_inside hc hin, respond, rspWord_ok_zext16]
    rfl
  · exact exec_of_accessOutside ⟨hc, s.readCursor + o, rfl, hout⟩
  · exact exec_unconfigured rfl

/-! ### The unread bytes -/

/-- The byte `k` positions after the read cursor, whether unread or not: what PEEK `k` answers (R92). -/
def byteAt (s : State) (k : Nat) : Byte :=
  readByte s (peekIndex s (BitVec.ofNat 16 k)).toNat

theorem unread_eq (s : State) : unread s = (List.range (fill s).toNat).map (byteAt s) := rfl

theorem unread_eq_nil {s : State} (h : s.writeCursor = s.readCursor) : unread s = [] := by
  rw [unread_eq, fill_eq_zero_iff.2 h]
  rfl

theorem byteAt_toNat (s : State) (o : Word) :
    byteAt s o.toNat = readByte s (peekIndex s o).toNat := by
  rw [byteAt, BitVec.ofNat_toNat, BitVec.setWidth_eq]

theorem byteAt_zero (s : State) : byteAt s 0 = readByte s (readIndex s).toNat := by
  simp [byteAt, peekIndex, readIndex]

theorem getElem?_unread {s : State} {k : Nat} (h : k < (fill s).toNat) :
    (unread s)[k]? = some (byteAt s k) := by
  simp [unread_eq, h]

/-- The cell that WRITE stores to is the one `fill` positions after the read cursor (R114). -/
theorem writeIndex_eq_peekIndex_fill (s : State) : writeIndex s = peekIndex s (fill s) := by
  rw [writeIndex, peekIndex, add16_eq, readCursor_add_fill]

theorem byteAt_advanceRead (s : State) (k : Nat) : byteAt (advanceRead s) k = byteAt s (k + 1) := by
  have hpos : s.readCursor + 1 + BitVec.ofNat 16 k = s.readCursor + BitVec.ofNat 16 (k + 1) := by
    rw [BitVec.ofNat_add, BitVec.add_assoc, BitVec.add_comm (BitVec.ofNat 16 k)]
    rfl
  exact congrArg (fun p => readByte s (phys s p).toNat) hpos

/-- The increment of READ takes the oldest byte off the queue (R91). -/
theorem unread_advanceRead {s : State} (h : 0 < (fill s).toNat) :
    unread s = byteAt s 0 :: unread (advanceRead s) := by
  have hfill : (fill s).toNat = (fill (advanceRead s)).toNat + 1 := by
    simp only [fill, sub16_eq, advanceRead_writeCursor, advanceRead_readCursor, inc16_eq] at h ⊢
    bv_omega
  have hshift : byteAt (advanceRead s) = byteAt s ∘ Nat.succ := funext (byteAt_advanceRead s)
  rw [unread_eq, unread_eq, hfill, List.range_succ_eq_map, List.map_cons, List.map_map, hshift]

theorem byteAt_write (s : State) (d : Byte) (k : Nat) :
    byteAt (advanceWrite (stored d s)) k =
      if (peekIndex s (BitVec.ofNat 16 k)).toNat = (writeIndex s).toNat then d else byteAt s k :=
  readByte_store s _ _ d

/-- Below full the cell of the next WRITE holds no unread byte (R117). -/
theorem peekIndex_ne_writeIndex {s : State} (h : ControlBlockOk s) (hc : s.configured = true)
    (hfull : (fill s).toNat < s.capacity.toNat) {k : Nat} (hk : k < (fill s).toNat) :
    peekIndex s (BitVec.ofNat 16 k) ≠ writeIndex s := by
  have hlt := (fill s).isLt
  have hnat : (BitVec.ofNat 16 k).toNat = k := by
    rw [BitVec.toNat_ofNat]
    omega
  rw [writeIndex_eq_peekIndex_fill]
  intro heq
  have hsame := phys_add_inj h hc (hnat.trans_lt (hk.trans hfull)) hfull heq
  exact hk.ne (hnat.symm.trans (congrArg BitVec.toNat hsame))

/-- Below full WRITE appends its byte to the queue (R90). -/
theorem unread_write {s : State} (h : ControlBlockOk s) (hc : s.configured = true) (d : Byte)
    (hfull : (fill s).toNat < s.capacity.toNat) :
    unread (advanceWrite (stored d s)) = unread s ++ [d] := by
  have hfill : (fill (advanceWrite (stored d s))).toNat = (fill s).toNat + 1 := by
    simp only [fill, sub16_eq, advanceWrite_writeCursor, advanceWrite_readCursor, inc16_eq,
      logPort_writeCursor, logPort_readCursor] at hfull ⊢
    bv_omega
  have hold : ∀ k ∈ List.range (fill s).toNat,
      byteAt (advanceWrite (stored d s)) k = byteAt s k := by
    intro k hk
    have hne := peekIndex_ne_writeIndex h hc hfull (List.mem_range.1 hk)
    rw [byteAt_write, if_neg fun heq => hne (BitVec.eq_of_toNat_eq heq)]
  have hnew : byteAt (advanceWrite (stored d s)) (fill s).toNat = d := by
    rw [byteAt_write, BitVec.ofNat_toNat, BitVec.setWidth_eq, writeIndex_eq_peekIndex_fill,
      if_pos rfl]
  rw [unread_eq, unread_eq, hfill, List.range_succ, List.map_append, List.map_congr_left hold,
    List.map_singleton, hnew]

/-- Settles O48, command by command: each answers, and its update of the cursors and the storage is the
queue's operation. -/
theorem unreadBytesAreAQueue : Obligations.UnreadBytesAreAQueue := by
  rintro s ⟨-, hblock, -, -⟩ hc hcov
  have hin := phys_lt_storageLen hblock hc hcov
  refine ⟨fun d hfull => ?_, fun hpos _ => ?_, fun k hk => ?_, ?_, fun k hk => ?_⟩
  · exact ⟨_, exec_write_inside hc (hin _), unread_write hblock hc d hfull⟩
  · refine ⟨_, _, _, unread_advanceRead hpos, exec_read_inside hc (hin _), ?_, rfl⟩
    rw [respond_responses, rspWord_ok_zext16, byteAt_zero]
    rfl
  · refine ⟨_, _, getElem?_unread hk, exec_peek_inside hc (hin _), ?_, rfl⟩
    rw [respond_responses, rspWord_ok_zext16, byteAt_toNat]
    rfl
  · exact ⟨_, exec_rst_configured hc, unread_eq_nil rfl⟩
  · exact ⟨_, exec_init_accepted (argsOk_two_pow hk), unread_eq_nil rfl⟩

end Sys2Proof

/-! SUPPORT. Proofs about RST and the queries (spec/42_reset_and_queries.md R100 to R104): their encodings,
their outcomes, and the values that they answer. -/

namespace Sys2Proof

open Machine

/-! ### The encodings -/

/-- Format N (R62, R64): the opcode picks the row, and the row accepts the one word. -/
theorem decode_of_opField_formatN {i : Instr}
    (hi : i ∈ [.read, .rst, .isfull, .isempty, .fill, .free]) {w : CmdWord}
    (hop : opField w = opField (encode i)) :
    decode w = if w = encode i then .ok i else .error .strayBit := by
  simp only [List.mem_cons, List.not_mem_nil, or_false] at hi
  rw [decode, hop]
  rcases hi with rfl | rfl | rfl | rfl | rfl | rfl <;> exact decodeRow_full_mask w _ _

/-! ### The outcomes -/

section Configured

variable {s : State} (hc : s.configured = true)
include hc

theorem exec_isfull_configured : exec .isfull s = .next (respond .ok (boolWord (full s)) s) :=
  whenConfigured_configured hc _

theorem exec_isempty_configured : exec .isempty s = .next (respond .ok (boolWord (empty s)) s) :=
  whenConfigured_configured hc _

theorem exec_fill_configured : exec .fill s = .next (respond .ok (fill s) s) :=
  whenConfigured_configured hc _

theorem exec_free_configured : exec .free s = .next (respond .ok (free s) s) :=
  whenConfigured_configured hc _

end Configured

/-! ### The values answered -/

/-- A test answers 1 where its condition holds and 0 elsewhere (R68, D23). -/
theorem rspWord_ok_boolWord {b : Bool} {p : Prop} [Decidable p] (h : b = true ↔ p) :
    rspWord .ok (boolWord b) = if p then 1 else 0 := by
  rw [rspWord_ok, boolWord, ← if_congr h rfl rfl]
  cases b with
  | false => rfl
  | true => rfl

theorem empty_eq_true_iff_cursors {s : State} : empty s = true ↔ s.writeCursor = s.readCursor :=
  empty_eq_true_iff.trans fill_eq_zero_iff

/-- One unsigned subtraction modulo 65536, whichever cursor is ahead (R103). -/
theorem fill_toNat (s : State) :
    (fill s).toNat = (s.writeCursor.toNat + 65536 - s.readCursor.toNat) % 65536 := by
  rw [fill, sub16_eq]
  bv_omega

/-- Settles O24: RST's row, its one update, the test of the cursors made equal, and the status before a
construction. -/
theorem rstDiscardsUnreadBytes : Obligations.RstDiscardsUnreadBytes := by
  refine ⟨fun _ => decode_of_opField_formatN (i := .rst) (by decide),
    fun s => ⟨fun hc => ⟨exec_rst_configured hc, ?_⟩, exec_unconfigured rfl⟩⟩
  rw [exec_isempty_configured (s := { s with readCursor := s.writeCursor }) hc, respond,
    rspWord_ok_boolWord empty_eq_true_iff_cursors, if_pos rfl]

/-- Settles O25: ISFULL's row, its test of the fill count, and the status before a construction. -/
theorem isfullComparesFillWithCapacity : Obligations.IsfullComparesFillWithCapacity := by
  refine ⟨fun _ => decode_of_opField_formatN (i := .isfull) (by decide),
    fun s => ⟨fun hc => ?_, exec_unconfigured rfl⟩⟩
  rw [exec_isfull_configured hc, respond, rspWord_ok_boolWord full_eq_true_iff]
  rfl

/-- Settles O26: ISEMPTY's row, its test of the cursors, and the status before a construction. -/
theorem isemptyComparesTheCursors : Obligations.IsemptyComparesTheCursors := by
  refine ⟨fun _ => decode_of_opField_formatN (i := .isempty) (by decide),
    fun s => ⟨fun hc => ?_, exec_unconfigured rfl⟩⟩
  rw [exec_isempty_configured hc, respond, rspWord_ok_boolWord empty_eq_true_iff_cursors]

/-- Settles O27: FILL's row, its one subtraction, and the status before a construction. -/
theorem fillReportsTheDifference : Obligations.FillReportsTheDifference := by
  refine ⟨fun _ => decode_of_opField_formatN (i := .fill) (by decide),
    fun s => ⟨fun hc => ?_, exec_unconfigured rfl⟩⟩
  rw [exec_fill_configured hc, respond, rspWord_ok, ← fill_toNat, BitVec.ofNat_toNat]

/-- Settles O28: FREE's row, its one subtraction (wrapped in overrun by D11; log 11), and the status before
a construction. -/
theorem freeReportsCapacityLessFill : Obligations.FreeReportsCapacityLessFill := by
  refine ⟨fun _ => decode_of_opField_formatN (i := .free) (by decide),
    fun s => ⟨fun hc => ?_, exec_unconfigured rfl⟩⟩
  rw [exec_free_configured hc, respond, rspWord_ok]
  rfl

end Sys2Proof

/-! SUPPORT. Proofs about the statuses other than OK (spec/60_exceptions.md R134): what a command that answers
with one has done besides. -/

namespace Sys2Proof

open Machine

/-! ### What stands in the answer -/

/-- `t` has exactly one response more than `s`, with the status OK (R67, R69). -/
def AnswersOk (s t : State) : Prop :=
  ∃ v, t.responses = s.responses ++ [rspWord .ok v]

/-- The end of a command that does its work, after updates that leave the responses alone. -/
theorem AnswersOk.of_respond {s t u : State} {v : Word} (ht : t = respond .ok v u)
    (hu : u.responses = s.responses) : AnswersOk s t :=
  ⟨v, by rw [ht, respond_responses, hu]⟩

theorem AnswersOk.rspStatus_eq_zero {s t : State} (h : AnswersOk s t) {r : RspWord}
    (hr : t.responses = s.responses ++ [r]) : rspStatus r = 0 := by
  obtain ⟨v, hv⟩ := h
  obtain rfl : r = rspWord .ok v := by simpa [hv, eq_comm] using hr
  rw [rspStatus_rspWord]
  rfl

/-- `raise S` after updates that leave the responses alone: its one word carries `S` and is all that it adds
(R10, R134). -/
theorem raiseStatus_eq_of_responses {s u : State} {st : Status} {r : RspWord}
    (hu : u.responses = s.responses) (hr : (raiseStatus st u).responses = s.responses ++ [r]) :
    rspStatus r = statusCode st ∧
      raiseStatus st u = { u with responses := s.responses ++ [r] } := by
  obtain rfl : r = rspWord st 0 := by simpa [hu, eq_comm] using hr
  exact ⟨rspStatus_rspWord st 0, by rw [← hu]; rfl⟩

/-! ### The ways to answer -/

/-- A command that needs a constructed buffer: it does its work, or the status is all that happens. -/
theorem answersOk_or_raiseStatus {s t : State} {p : Prop} (hok : p → AnswersOk s t)
    (h : p ∨ (s.configured = false ∧ t = raiseStatus .notConfigured s)) :
    AnswersOk s t ∨ ∃ st, t = raiseStatus st s :=
  h.imp hok fun ⟨_, ht⟩ => ⟨_, ht⟩

/-- The command is an INITB whose arguments pass, so the allocator is asked, and the allocator refuses (R81). -/
def RefusedRequest (i : Instr) (s : State) : Prop :=
  (∃ c, i = .initb true true c ∧ argsOk true c = true) ∧ s.allocGrant = false

/-- A command that answers does its work, or raises a status and does nothing else, or is the INITB whose
request the allocator refused. -/
theorem exec_next_cases {i : Instr} {s t : State} (h : exec i s = .next t) :
    (AnswersOk s t ∨ ∃ st, t = raiseStatus st s) ∨
      (RefusedRequest i s ∧ t = raiseStatus .constructionFailed (requestAllocator s)) := by
  cases i with
  | init cp sp c =>
    left
    rcases execInit_next h with ⟨-, -, ht⟩ | ⟨-, ht⟩
    · exact .inl (.of_respond ht rfl)
    · exact .inr ⟨_, ht⟩
  | initb ap sp c =>
    rcases execInitb_next h with ⟨-, -, -, ht⟩ | ⟨rfl, hargs, hg, ht⟩ | ⟨-, ht⟩
    · exact .inl (.inl (.of_respond ht rfl))
    · obtain ⟨rfl, -⟩ := argsOk_eq_true_iff.1 hargs
      exact .inr ⟨⟨⟨c, rfl, hargs⟩, hg⟩, ht⟩
    · exact .inl (.inr ⟨_, ht⟩)
  | write d =>
    exact .inl (answersOk_or_raiseStatus (fun ⟨_, _, ht⟩ => .of_respond ht rfl) (execWrite_next h))
  | read =>
    exact .inl (answersOk_or_raiseStatus (fun ⟨_, _, ht⟩ => .of_respond ht rfl) (execRead_next h))
  | peek o =>
    exact .inl (answersOk_or_raiseStatus (fun ⟨_, _, ht⟩ => .of_respond ht rfl) (execPeek_next h))
  | rst => exact .inl (answersOk_or_raiseStatus (fun ⟨_, ht⟩ => .of_respond ht rfl) (execRst_next h))
  | isfull =>
    exact .inl (answersOk_or_raiseStatus (fun ⟨_, ht⟩ => .of_respond ht rfl) (execIsfull_next h))
  | isempty =>
    exact .inl (answersOk_or_raiseStatus (fun ⟨_, ht⟩ => .of_respond ht rfl) (execIsempty_next h))
  | fill => exact .inl (answersOk_or_raiseStatus (fun ⟨_, ht⟩ => .of_respond ht rfl) (execFill_next h))
  | free => exact .inl (answersOk_or_raiseStatus (fun ⟨_, ht⟩ => .of_respond ht rfl) (execFree_next h))

/-- Settles O31: of the ways to answer, doing the work has the status OK; a raised status adds its word alone,
to the state as it was or, in a refused INITB, after the one request. An illegal word raises its status once
its input is accepted. -/
theorem nonOkStatusChangesNothing : Obligations.NonOkStatusChangesNothing := by
  refine ⟨fun i s t r h hr hst => ?_, fun s w g rest e => step_of_decode_error⟩
  rcases exec_next_cases h with (hok | ⟨st, rfl⟩) | ⟨⟨hinitb, hg⟩, rfl⟩
  · exact absurd (hok.rspStatus_eq_zero hr) hst
  · obtain ⟨-, ht⟩ := raiseStatus_eq_of_responses rfl hr
    exact .inl ht
  · obtain ⟨hcode, ht⟩ := raiseStatus_eq_of_responses (requestAllocator_responses s) hr
    exact .inr ⟨hinitb, hg, hcode, ht⟩

end Sys2Proof

/-! SUPPORT. Proofs about the step with nothing presented and the step at hardware reset
(spec/70_reset_and_hazards.md R150, R160). -/

namespace Sys2Proof

open Machine

/-- With nothing presented, a step is the state itself (R160; log 1). -/
theorem step_of_no_input {s : State} (h : s.inputs = []) : step s = .next s := by
  simp only [step, accept_idle h]

/-- A step whose oldest input is hardware reset resets the block after taking that input (R150, R162). -/
theorem step_of_hardwareReset {s : State} {rest : List HostInput}
    (h : s.inputs = .hardwareReset :: rest) :
    step s = .next (hardwareReset (acceptInput rest s.allocGrant s)) := by
  simp only [step, accept_reset h]

/-- After hardware reset the block is in class UNCONFIGURED, whatever the free registers hold (R150). -/
@[simp] theorem fillClass_hardwareReset (s : State) : fillClass (hardwareReset s) = .unconfigured :=
  fillClass_eq_unconfigured_iff.2 (hardwareReset_configured s)

/-- Settles O11, by what `accept` finds with no input pending. -/
theorem idleBlockKeepsItsState : Obligations.IdleBlockKeepsItsState :=
  fun _ h => step_of_no_input h

/-- Settles O12: the next state is the reset one, and of what the statement names, hardware reset writes
`configured` and taking the input writes `inputs`. -/
theorem hardwareResetUnconfigures : Obligations.HardwareResetUnconfigures := by
  intro s rest h
  refine ⟨_, step_of_hardwareReset h, ?_⟩
  simp

end Sys2Proof

/-! SUPPORT. Proofs about the laws of the control block (spec/00_scope.md section 5, 10_state.md section 5,
20_memory.md section 1, 43_wraparound_and_fill_states.md section 2): the power-of-two test, the reset state,
the indices, and the window that accesses stay in. -/

namespace Sys2Proof

open Machine

/-! ### The power-of-two test -/

/-- A word is one of the sixteen powers of two exactly when its value is a power of two at all (R9). -/
theorem ispow2_iff_isPowerOfTwo {c : Word} : ispow2 c = true ↔ c.toNat.isPowerOfTwo := by
  rw [ispow2_eq_true_iff]
  refine ⟨fun ⟨k, _, hk⟩ => ⟨k, hk⟩, fun ⟨k, hk⟩ => ⟨k, ?_, hk⟩⟩
  have hlt : 2 ^ k < 2 ^ 16 := hk ▸ c.isLt
  exact (Nat.pow_lt_pow_iff_right (by decide)).1 hlt

/-- Settles O17: below zero nothing wraps, so the test of the word is the library's test of its value. -/
theorem powerOfTwoTestByLowestBit : Obligations.PowerOfTwoTestByLowestBit := by
  intro c
  by_cases h0 : c = 0
  · subst h0
    decide
  · have hne : c.toNat ≠ 0 := fun h => h0 (BitVec.eq_of_toNat_eq h)
    have hpred : (c - 1).toNat = c.toNat - 1 :=
      BitVec.toNat_sub_of_le (BitVec.le_def.2 (Nat.one_le_iff_ne_zero.2 hne))
    have hand : c &&& (c - 1) = 0 ↔ c.toNat &&& (c.toNat - 1) = 0 := by
      rw [← BitVec.toNat_inj, BitVec.toNat_and, hpred]
      rfl
    rw [ispow2_iff_isPowerOfTwo, hand, Nat.and_sub_one_eq_zero_iff_isPowerOfTwo hne]
    exact (and_iff_right h0).symm

/-! ### The invariant at reset and in a configured block -/

/-- Settles O14: nothing is listed, answered or accessed, and an unconfigured block may hold anything. -/
theorem resetMeetsTheInvariant : Obligations.ResetMeetsTheInvariant :=
  ⟨⟨rfl, List.forall_mem_nil _⟩, nofun, List.forall_mem_nil _, List.forall_mem_nil _⟩

theorem ControlBlockOk.capacityMask_eq {s : State} (h : ControlBlockOk s)
    (hc : s.configured = true) : s.capacityMask = s.capacity - 1 := by
  have hle : (1 : Word) ≤ s.capacity := BitVec.le_def.2 (h.capacity_pos hc)
  obtain ⟨-, hmask⟩ := h hc
  exact BitVec.eq_of_toNat_eq (hmask.trans (BitVec.toNat_sub_of_le hle).symm)

theorem ControlBlockOk.capacity_ne_zero {s : State} (h : ControlBlockOk s)
    (hc : s.configured = true) : s.capacity ≠ 0 := by
  intro h0
  have hpos := h.capacity_pos hc
  rw [h0] at hpos
  exact absurd hpos (by decide)

/-- Settles O36: full and empty together would be a capacity of 0. -/
theorem configuredBlockInvariants : Obligations.ConfiguredBlockInvariants := by
  rintro s ⟨-, hblock, -, -⟩ hc
  obtain ⟨⟨k, hlt, hk⟩, -⟩ := hblock hc
  refine ⟨?_, hblock.capacityMask_eq hc, hblock.phys_lt_capacity hc, fill_add_free s, ?_⟩
  · rw [sixteen_capacities_eq_map, hk]
    exact List.mem_map.2 ⟨k, List.mem_range.2 hlt, rfl⟩
  · rintro ⟨hfull, hempty⟩
    have hcap : s.capacity = 0 := (full_eq_true_iff.1 hfull).symm.trans (empty_eq_true_iff.1 hempty)
    exact hblock.capacity_ne_zero hc hcap

/-! ### Successors and distinct slots -/

/-- Settles O38: an increment is an offset of 1, and at both ends of the 16-bit range the mask is all there
is to see. -/
theorem successorLaw : Obligations.SuccessorLaw := by
  rintro s ⟨-, hblock, -, -⟩ hc
  refine ⟨fun p => ?_, ?_, ?_⟩
  · rw [inc16_eq, phys_add_toNat hblock hc, phys_toNat hblock hc, Nat.mod_add_mod]
    rfl
  · obtain ⟨-, hmask⟩ := hblock hc
    have hall : phys s 65535 = s.capacityMask := BitVec.allOnes_and
    rw [hall, hmask]
  · rw [phys_toNat hblock hc]
    exact Nat.zero_mod _

/-- A whole capacity on, the index is the same again (R112). -/
theorem phys_add_capacity {s : State} (h : ControlBlockOk s) (hc : s.configured = true) (p : Word) :
    phys s (p + s.capacity) = phys s p := by
  apply BitVec.eq_of_toNat_eq
  rw [phys_add_toNat h hc, Nat.add_mod_right, phys_toNat h hc]

/-- Settles O40: two offsets below the capacity are equal when their indices are; the next WRITE is `fill`
positions after the oldest byte. -/
theorem distinctSlots : Obligations.DistinctSlots := by
  rintro s ⟨-, hblock, -, -⟩ hc
  refine ⟨fun p i j hij hj heq => ?_, fun hfull k hk => (peekIndex_ne_writeIndex hblock hc hfull hk).symm,
    fun hfull => ?_⟩
  · have hcap := s.capacity.isLt
    have hi : (BitVec.ofNat 16 i).toNat = i := Nat.mod_eq_of_lt (by omega)
    have hj' : (BitVec.ofNat 16 j).toNat = j := Nat.mod_eq_of_lt (by omega)
    have hsame := phys_add_inj hblock hc (by omega) (by omega) heq
    exact hij.ne (hi.symm.trans ((congrArg BitVec.toNat hsame).trans hj'))
  · rw [← readCursor_add_fill, hfull, phys_add_capacity hblock hc]

/-! ### The window -/

/-- A command changes no cell from the capacity upward, and none on an unconfigured block (R42). -/
theorem exec_next_readByte {i : Instr} {s t : State} (h : ControlBlockOk s) (hx : exec i s = .next t)
    {a : Nat} (ha : s.configured = true → s.capacity.toNat ≤ a) : readByte t a = readByte s a := by
  cases i with
  | write d =>
    rcases execWrite_next hx with ⟨hc, -, rfl⟩ | ⟨-, rfl⟩
    · have hne : a ≠ (writeIndex s).toNat :=
        ((h.phys_lt_capacity hc s.writeCursor).trans_le (ha hc)).ne'
      exact (readByte_store s _ a d).trans (if_neg hne)
    · rfl
  | _ =>
    obtain ⟨-, -, -, hstorage, -⟩ := eachRegisterHasItsWriters _ s t hx
    exact readByte_congr (hstorage (by simp)) a

/-- Settles O34: of the steps a command alone accesses the storage, at indices that the mask forms. -/
theorem accessesStayInTheWindow : Obligations.AccessesStayInTheWindow := by
  rintro s t ⟨-, hblock, -, -⟩ h
  rcases step_next h with ⟨-, rfl⟩ | ⟨rest, -, rfl⟩ | ⟨w, g, rest, e, -, -, rfl⟩ |
    ⟨w, g, rest, i, -, -, hx⟩
  · exact ⟨⟨[], by simp⟩, fun _ _ => rfl⟩
  · exact ⟨⟨[], by simp⟩, fun _ _ => rfl⟩
  · exact ⟨⟨[], by simp⟩, fun _ _ => rfl⟩
  · have haccepted : ControlBlockOk (acceptInput rest g s) := hblock
    have hports := exec_next_portLog hx haccepted.phys_lt_capacity
    exact ⟨hports, fun _ ha => exec_next_readByte haccepted hx ha⟩

end Sys2Proof

/-! SUPPORT. Proofs about how commands move the fill state (spec/43_wraparound_and_fill_states.md sections 3
and 5, 60_exceptions.md section 4): fill and the cursors, the transitions between the classes, the contracts. -/

namespace Sys2Proof

open Machine

/-! ### What leaves the fill state as it was -/

/-- The registers that the class of a state is read from are the same. -/
def SameFillState (s t : State) : Prop :=
  t.configured = s.configured ∧ t.capacity = s.capacity ∧ t.writeCursor = s.writeCursor ∧
    t.readCursor = s.readCursor

theorem SameFillState.cursors {s t : State} (h : SameFillState s t) :
    t.writeCursor = s.writeCursor ∧ t.readCursor = s.readCursor := by
  obtain ⟨-, -, hwrite, hread⟩ := h
  exact ⟨hwrite, hread⟩

theorem SameFillState.fill_eq {s t : State} (h : SameFillState s t) : fill t = fill s := by
  obtain ⟨hwrite, hread⟩ := h.cursors
  rw [fill, fill, hwrite, hread]

theorem SameFillState.fillClass_eq {s t : State} (h : SameFillState s t) :
    fillClass t = fillClass s := by
  have hfill := h.fill_eq
  obtain ⟨hconf, hcap, -, -⟩ := h
  rw [fillClass, fillClass, hconf, hcap, hfill]

theorem SameFillState.trans {s t u : State} (h : SameFillState s t) (h' : SameFillState t u) :
    SameFillState s u := by
  obtain ⟨hconf, hcap, hwrite, hread⟩ := h
  obtain ⟨hconf', hcap', hwrite', hread'⟩ := h'
  exact ⟨hconf'.trans hconf, hcap'.trans hcap, hwrite'.trans hwrite, hread'.trans hread⟩

/-- A command that is no construction moves nothing on an unconfigured block (R131, R134). -/
theorem sameFillState_of_unconfigured {i : Instr} {s t : State} (hi : isConstruction i = false)
    (hc : s.configured = false) (hx : exec i s = .next t) : SameFillState s t := by
  rw [exec_unconfigured hi hc] at hx
  cases hx
  exact ⟨rfl, rfl, rfl, rfl⟩

/-- PEEK and the queries move nothing at all (R33). -/
theorem sameFillState_of_query {i : Instr} {s t : State} (hx : exec i s = .next t)
    (hi : isConstruction i = false) (hwrite : ∀ d, i ≠ .write d) (hread : i ≠ .read)
    (hrst : i ≠ .rst) : SameFillState s t := by
  obtain ⟨hblock, hw, hr, -⟩ := eachRegisterHasItsWriters i s t hx
  obtain ⟨hconf, hcap, -⟩ := hblock hi
  exact ⟨hconf, hcap, hw hi hwrite, hr hi hread hrst⟩

/-! ### What moves it -/

/-- The block is configured with both cursors at 0: what a construction that succeeds leaves (R80, R81). -/
def FreshBlock (t : State) : Prop :=
  t.configured = true ∧ t.writeCursor = 0 ∧ t.readCursor = 0

theorem FreshBlock.fill_eq_zero {t : State} (h : FreshBlock t) : fill t = 0 := by
  obtain ⟨-, hwrite, hread⟩ := h
  rw [fill, hwrite, hread]
  rfl

theorem FreshBlock.fillClass_eq {t : State} (h : FreshBlock t) : fillClass t = .empty := by
  have hfill := h.fill_eq_zero
  obtain ⟨hconf, -, -⟩ := h
  exact fillClass_eq_empty_iff.2 ⟨hconf, hfill⟩

theorem raiseStatus_responses_ne_ok {s u : State} {st : Status} (hst : st ≠ .ok)
    (hu : u.responses = s.responses) :
    (raiseStatus st u).responses ≠ s.responses ++ [0x00000000] := by
  rw [raiseStatus_responses, hu, Ne, List.append_cancel_left_eq, List.singleton_inj]
  cases st with
  | ok => exact absurd rfl hst
  | _ => decide

/-- A construction answers OK with a fresh block, or another status with the fill state as it was. -/
theorem construction_next {i : Instr} {s t : State} (hi : isConstruction i = true)
    (hx : exec i s = .next t) :
    (t.responses = s.responses ++ [0x00000000] ∧ FreshBlock t) ∨
      (t.responses ≠ s.responses ++ [0x00000000] ∧ SameFillState s t) := by
  cases i with
  | init cp sp c =>
    rcases execInit_next hx with ⟨-, -, rfl⟩ | ⟨-, rfl⟩
    · exact .inl ⟨rfl, rfl, rfl, rfl⟩
    · exact .inr ⟨raiseStatus_responses_ne_ok nofun rfl, rfl, rfl, rfl, rfl⟩
  | initb ap sp c =>
    rcases execInitb_next hx with ⟨-, -, -, rfl⟩ | ⟨-, -, -, rfl⟩ | ⟨-, rfl⟩
    · exact .inl ⟨rfl, rfl, rfl, rfl⟩
    · exact .inr ⟨raiseStatus_responses_ne_ok nofun rfl, rfl, rfl, rfl, rfl⟩
    · exact .inr ⟨raiseStatus_responses_ne_ok nofun rfl, rfl, rfl, rfl, rfl⟩
  | _ => cases hi

/-- A construction is EMPTY where it answers OK, and where it does not it keeps the class (R121). -/
theorem construction_fillClass {i : Instr} {s t : State} (hi : isConstruction i = true)
    (hx : exec i s = .next t) :
    fillClass t = if t.responses = s.responses ++ [0x00000000] then .empty else fillClass s := by
  rcases construction_next hi hx with ⟨hok, hfresh⟩ | ⟨hno, hsame⟩
  · rw [if_pos hok, hfresh.fillClass_eq]
  · rw [if_neg hno, hsame.fillClass_eq]

section Configured

variable {s t : State} (hc : s.configured = true)
include hc

/-- WRITE on a configured block: one step of the write cursor (R90). -/
theorem write_next_configured {d : Byte} (hx : exec (.write d) s = .next t) :
    t.configured = true ∧ t.capacity = s.capacity ∧ t.writeCursor = inc16 s.writeCursor ∧
      t.readCursor = s.readCursor := by
  rcases execWrite_next hx with ⟨-, -, rfl⟩ | ⟨hno, -⟩
  · exact ⟨hc, rfl, rfl, rfl⟩
  · exact absurd hc (Bool.eq_false_iff.1 hno)

/-- READ on a configured block: one step of the read cursor (R91). -/
theorem read_next_configured (hx : exec .read s = .next t) :
    t.configured = true ∧ t.capacity = s.capacity ∧ t.writeCursor = s.writeCursor ∧
      t.readCursor = inc16 s.readCursor := by
  rcases execRead_next hx with ⟨-, -, rfl⟩ | ⟨hno, -⟩
  · exact ⟨hc, rfl, rfl, rfl⟩
  · exact absurd hc (Bool.eq_false_iff.1 hno)

/-- RST on a configured block: the read cursor catches up (R100). -/
theorem rst_next_configured (hx : exec .rst s = .next t) :
    t.configured = true ∧ t.writeCursor = s.writeCursor ∧ t.readCursor = s.writeCursor := by
  rw [exec_rst_configured hc] at hx
  cases hx
  exact ⟨hc, rfl, rfl⟩

theorem write_next_fill {d : Byte} (hx : exec (.write d) s = .next t) : fill t = fill s + 1 := by
  obtain ⟨-, -, hwrite, hread⟩ := write_next_configured hc hx
  simp only [fill, hwrite, hread, sub16_eq, inc16_eq]
  bv_omega

theorem read_next_fill (hx : exec .read s = .next t) : fill t = fill s - 1 := by
  obtain ⟨-, -, hwrite, hread⟩ := read_next_configured hc hx
  simp only [fill, hwrite, hread, sub16_eq, inc16_eq]
  bv_omega

theorem rst_next_fill (hx : exec .rst s = .next t) : fill t = 0 := by
  obtain ⟨-, hwrite, hread⟩ := rst_next_configured hc hx
  exact fill_eq_zero_iff.2 (hwrite.trans hread.symm)

end Configured

/-- Settles O44: constructions by their answer; the rest by `configured` and, on a configured block, command
by command. -/
theorem fillMovement : Obligations.FillMovement := by
  refine ⟨fun i s t hx => ⟨fun hi => ?_, fun hi hc => ?_, fun hi hc => ?_⟩, fun s t ht => ?_⟩
  · rcases construction_next hi hx with ⟨hok, hfresh⟩ | ⟨hno, hsame⟩
    · have hfill := hfresh.fill_eq_zero
      obtain ⟨-, hcursors⟩ := hfresh
      exact ⟨fun _ => ⟨hfill, hcursors⟩, fun hno => absurd hok hno⟩
    · exact ⟨fun hok => absurd hok hno, fun _ => hsame.cursors⟩
  · exact (sameFillState_of_unconfigured hi hc hx).cursors
  · cases i with
    | init cp sp c => cases hi
    | initb ap sp c => cases hi
    | write d =>
      obtain ⟨-, -, hcursors⟩ := write_next_configured hc hx
      exact ⟨write_next_fill hc hx, hcursors⟩
    | read =>
      obtain ⟨-, -, hcursors⟩ := read_next_configured hc hx
      exact ⟨read_next_fill hc hx, hcursors⟩
    | rst =>
      obtain ⟨-, hcursors⟩ := rst_next_configured hc hx
      exact ⟨rst_next_fill hc hx, hcursors⟩
    | _ =>
      have hsame := sameFillState_of_query hx hi nofun nofun nofun
      exact ⟨hsame.fill_eq, hsame.cursors⟩
  · cases ht
    exact ⟨rfl, rfl⟩

/-! ### From class to class -/

/-- Full is a class of its own when no capacity is 0, as in a legal control block. -/
theorem ControlBlockOk.fillClass_eq_full_iff {s : State} (h : ControlBlockOk s) :
    fillClass s = .full ↔ s.configured = true ∧ fill s = s.capacity :=
  Sys2Proof.fillClass_eq_full_iff h.capacity_pos

section Transition

variable {s t : State} {d : Byte}

theorem write_of_empty (hs : ControlBlockOk s) (ht : ControlBlockOk t)
    (hx : exec (.write d) s = .next t) (hclass : fillClass s = .empty) :
    fillClass t = if s.capacity = 1 then .full else .partialFill := by
  obtain ⟨hc, h0⟩ := fillClass_eq_empty_iff.1 hclass
  obtain ⟨hct, hcap, -⟩ := write_next_configured hc hx
  have hfill := write_next_fill hc hx
  have hpos := hs.capacity_pos hc
  split
  · exact ht.fillClass_eq_full_iff.2 ⟨hct, by bv_omega⟩
  · exact fillClass_eq_partialFill_iff.2 ⟨hct, by bv_omega, by bv_omega⟩

theorem write_of_partialFill (hs : ControlBlockOk s) (ht : ControlBlockOk t)
    (hx : exec (.write d) s = .next t) (hclass : fillClass s = .partialFill) :
    fillClass t = if (fill s).toNat + 1 = s.capacity.toNat then .full else .partialFill := by
  obtain ⟨hc, h0, hlt⟩ := fillClass_eq_partialFill_iff.1 hclass
  obtain ⟨hct, hcap, -⟩ := write_next_configured hc hx
  have hfill := write_next_fill hc hx
  have hle := hs.capacity_le hc
  split
  · exact ht.fillClass_eq_full_iff.2 ⟨hct, by bv_omega⟩
  · exact fillClass_eq_partialFill_iff.2 ⟨hct, by bv_omega, by bv_omega⟩

theorem write_of_full (hs : ControlBlockOk s)
    (hx : exec (.write d) s = .next t) (hclass : fillClass s = .full) :
    fillClass t = .overrun ∧ (fill t).toNat = s.capacity.toNat + 1 := by
  obtain ⟨hc, hfull⟩ := hs.fillClass_eq_full_iff.1 hclass
  obtain ⟨hct, hcap, -⟩ := write_next_configured hc hx
  have hfill := write_next_fill hc hx
  have hle := hs.capacity_le hc
  exact ⟨fillClass_eq_overrun_iff.2 ⟨hct, by bv_omega⟩, by bv_omega⟩

theorem write_of_overrun (hx : exec (.write d) s = .next t)
    (hclass : fillClass s = .overrun) :
    fillClass t = if (fill s).toNat = 65535 then .empty else .overrun := by
  obtain ⟨hc, hgt⟩ := fillClass_eq_overrun_iff.1 hclass
  obtain ⟨hct, hcap, -⟩ := write_next_configured hc hx
  have hfill := write_next_fill hc hx
  split
  · exact fillClass_eq_empty_iff.2 ⟨hct, by bv_omega⟩
  · exact fillClass_eq_overrun_iff.2 ⟨hct, by bv_omega⟩

theorem read_of_empty (hs : ControlBlockOk s)
    (hx : exec .read s = .next t) (hclass : fillClass s = .empty) :
    fillClass t = .overrun ∧ (fill t).toNat = 65535 := by
  obtain ⟨hc, h0⟩ := fillClass_eq_empty_iff.1 hclass
  obtain ⟨hct, hcap, -⟩ := read_next_configured hc hx
  have hfill := read_next_fill hc hx
  have hle := hs.capacity_le hc
  exact ⟨fillClass_eq_overrun_iff.2 ⟨hct, by bv_omega⟩, by bv_omega⟩

theorem read_of_partialFill (hx : exec .read s = .next t)
    (hclass : fillClass s = .partialFill) :
    fillClass t = if fill s = 1 then .empty else .partialFill := by
  obtain ⟨hc, h0, hlt⟩ := fillClass_eq_partialFill_iff.1 hclass
  obtain ⟨hct, hcap, -⟩ := read_next_configured hc hx
  have hfill := read_next_fill hc hx
  split
  · exact fillClass_eq_empty_iff.2 ⟨hct, by bv_omega⟩
  · exact fillClass_eq_partialFill_iff.2 ⟨hct, by bv_omega, by bv_omega⟩

theorem read_of_full (hs : ControlBlockOk s)
    (hx : exec .read s = .next t) (hclass : fillClass s = .full) :
    fillClass t = if s.capacity = 1 then .empty else .partialFill := by
  obtain ⟨hc, hfull⟩ := hs.fillClass_eq_full_iff.1 hclass
  obtain ⟨hct, hcap, -⟩ := read_next_configured hc hx
  have hfill := read_next_fill hc hx
  have hpos := hs.capacity_pos hc
  split
  · exact fillClass_eq_empty_iff.2 ⟨hct, by bv_omega⟩
  · exact fillClass_eq_partialFill_iff.2 ⟨hct, by bv_omega, by bv_omega⟩

theorem read_of_overrun (ht : ControlBlockOk t)
    (hx : exec .read s = .next t) (hclass : fillClass s = .overrun) :
    fillClass t = if (fill s).toNat = s.capacity.toNat + 1 then .full else .overrun := by
  obtain ⟨hc, hgt⟩ := fillClass_eq_overrun_iff.1 hclass
  obtain ⟨hct, hcap, -⟩ := read_next_configured hc hx
  have hfill := read_next_fill hc hx
  split
  · exact ht.fillClass_eq_full_iff.2 ⟨hct, by bv_omega⟩
  · exact fillClass_eq_overrun_iff.2 ⟨hct, by bv_omega⟩

end Transition

theorem fillClass_of_unconfigured {i : Instr} {s t : State} (hi : isConstruction i = false)
    (hclass : fillClass s = .unconfigured) (hx : exec i s = .next t) :
    fillClass t = .unconfigured := by
  have hc := fillClass_eq_unconfigured_iff.1 hclass
  rw [(sameFillState_of_unconfigured hi hc hx).fillClass_eq, hclass]

theorem fillClass_rst {s t : State} (hclass : fillClass s ≠ .unconfigured)
    (hx : exec .rst s = .next t) : fillClass t = .empty := by
  have hc : s.configured = true := by
    rwa [Ne, fillClass_eq_unconfigured_iff, Bool.not_eq_false] at hclass
  obtain ⟨hct, -⟩ := rst_next_configured hc hx
  exact fillClass_eq_empty_iff.2 ⟨hct, rst_next_fill hc hx⟩

/-- Settles O45: the cells of WRITE, READ and RST by the class before; the constructions by their answer; PEEK
and the queries keep the class. -/
theorem classTransitions : Obligations.ClassTransitions := by
  rintro i s t ⟨-, hs, -, -⟩ hx
  have ht := hs.exec_next hx
  cases i with
  | init cp sp c => exact construction_fillClass rfl hx
  | initb ap sp c => exact construction_fillClass rfl hx
  | write d =>
    cases hclass : fillClass s with
    | unconfigured => exact fillClass_of_unconfigured rfl hclass hx
    | empty => exact write_of_empty hs ht hx hclass
    | partialFill => exact write_of_partialFill hs ht hx hclass
    | full => exact write_of_full hs hx hclass
    | overrun => exact write_of_overrun hx hclass
  | read =>
    cases hclass : fillClass s with
    | unconfigured => exact fillClass_of_unconfigured rfl hclass hx
    | empty => exact read_of_empty hs hx hclass
    | partialFill => exact read_of_partialFill hx hclass
    | full => exact read_of_full hs hx hclass
    | overrun => exact read_of_overrun ht hx hclass
  | rst =>
    cases hclass : fillClass s with
    | unconfigured => exact fillClass_of_unconfigured rfl hclass hx
    | _ => exact fillClass_rst (by simp [hclass]) hx
  | _ => exact (sameFillState_of_query hx rfl nofun nofun nofun).fillClass_eq

/-! ### Keeping the contracts -/

theorem construction_not_overrun {i : Instr} {s t : State} (hi : isConstruction i = true)
    (hover : fillClass s ≠ .overrun) (hx : exec i s = .next t) : fillClass t ≠ .overrun := by
  rw [construction_fillClass hi hx]
  split
  · decide
  · exact hover

/-- One command that keeps its contract does not enter OVERRUN: no cell of the transition table that the
contract allows does (R121, R122). -/
theorem exec_next_not_overrun {i : Instr} {s t : State} (hinv : Invariant s)
    (hover : fillClass s ≠ .overrun) (hkept : contractKept i s) (hx : exec i s = .next t) :
    fillClass t ≠ .overrun := by
  have hcell := classTransitions i s t hinv hx
  cases i with
  | init cp sp c => exact construction_not_overrun rfl hover hx
  | initb ap sp c => exact construction_not_overrun rfl hover hx
  | write d =>
    rcases hkept with hclass | hclass <;> rw [hclass] at hcell <;> rw [hcell] <;> split <;> decide
  | read =>
    rcases hkept with hclass | hclass <;> rw [hclass] at hcell <;> rw [hcell] <;> split <;> decide
  | rst => cases hclass : fillClass s <;> rw [hclass] at hcell <;> rw [hcell] <;> decide
  | _ =>
    have hclass : fillClass t = fillClass s := hcell
    exact hclass ▸ hover

/-- Settles O46, by induction on the commands: each keeps the invariant and stays out of OVERRUN. -/
theorem contractsKeepOutOfOverrun : Obligations.ContractsKeepOutOfOverrun := by
  intro cmds
  induction cmds with
  | nil =>
    rintro s t - hover - hrun
    cases hrun
    refine ⟨hover, fun hc => Nat.le_of_not_lt fun hgt => hover ?_⟩
    exact fillClass_eq_overrun_iff.2 ⟨hc, hgt⟩
  | cons i cmds ih =>
    rintro s t hinv hover ⟨hkept, hrest⟩ hrun
    rw [runCommands] at hrun
    split at hrun
    · rename_i u hx
      exact ih u t (hinv.exec_next hx) (exec_next_not_overrun hinv hover hkept hx) (hrest u hx) hrun
    · cases hrun
    · cases hrun

/-! ### Coming back to EMPTY -/

theorem freshBlock_populate (c : Word) (s : State) : FreshBlock (populate c s) := ⟨rfl, rfl, rfl⟩

/-- Settles O47: the two constructions leave a fresh block, and RST equal cursors. -/
theorem everyStateRecoversToEmpty : Obligations.EveryStateRecoversToEmpty := by
  refine fun s => ⟨fun k hk => ?_, fun hg k hk => ?_, fun hc => ?_⟩
  · exact ⟨_, exec_init_accepted (argsOk_two_pow hk), (freshBlock_populate _ s).fillClass_eq⟩
  · exact ⟨_, exec_initb_granted (argsOk_two_pow hk) hg,
      (freshBlock_populate _ (requestAllocator s)).fillClass_eq⟩
  · exact ⟨_, exec_rst_configured hc, fillClass_eq_empty_iff.2 ⟨hc, fill_eq_zero_iff.2 rfl⟩⟩

end Sys2Proof

/-! SUPPORT. Proofs about the order of the bytes (spec/43_wraparound_and_fill_states.md section 4): what runs of
WRITE, READ and PEEK answer, and the run across the wrap of the cursors. -/

namespace Sys2Proof

open Machine

/-! ### A block in use -/

/-- A constructed block that meets the invariant, over an array that covers its capacity (R31, R46). -/
def Ready (s : State) : Prop :=
  Invariant s ∧ s.configured = true ∧ StorageCovers s

theorem Ready.configured {s : State} (h : Ready s) : s.configured = true := by
  obtain ⟨-, hc, -⟩ := h
  exact hc

theorem Ready.controlBlockOk {s : State} (h : Ready s) : ControlBlockOk s := by
  obtain ⟨⟨-, hblock, -, -⟩, -⟩ := h
  exact hblock

theorem Ready.phys_lt_storageLen {s : State} (h : Ready s) (p : Word) :
    (phys s p).toNat < s.storageLen := by
  obtain ⟨⟨-, hblock, -, -⟩, hc, hcov⟩ := h
  exact Sys2Proof.phys_lt_storageLen hblock hc hcov p

/-- Only a construction could bind a capacity that the array does not cover. -/
theorem Ready.exec_next {i : Instr} {s t : State} (h : Ready s) (hi : isConstruction i = false)
    (hx : exec i s = .next t) : Ready t := by
  obtain ⟨hinv, hc, hcov⟩ := h
  obtain ⟨hblock, -, -, -, hlen, -⟩ := eachRegisterHasItsWriters i s t hx
  obtain ⟨hconf, hcap, -⟩ := hblock hi
  refine ⟨hinv.exec_next hx, hconf.trans hc, ?_⟩
  rw [StorageCovers, hcap, hlen]
  exact hcov

theorem runCommands_cons {i : Instr} {s t : State} (hx : exec i s = .next t) (cmds : List Instr) :
    runCommands (i :: cmds) s = runCommands cmds t := by
  rw [runCommands, hx]

/-! ### First in, first out -/

theorem rspByte_setWidth (b : Byte) : rspByte (b.setWidth 32) = b := by
  ext j hj
  simp [rspByte, hj]
  omega

theorem writtenBytes_cons (i : Instr) (cmds : List Instr) :
    writtenBytes (i :: cmds) = writtenBytes [i] ++ writtenBytes cmds := by
  cases i <;> rfl

theorem readBytes_cons (i : Instr) (r : RspWord) (cmds : List Instr) (rs : List RspWord) :
    readBytes (i :: cmds) (r :: rs) = readBytes [i] [r] ++ readBytes cmds rs := by
  cases i <;> rfl

theorem fill_lt_capacity_of_contract {s : State} {d : Byte} (hpos : 0 < s.capacity.toNat)
    (hkept : contractKept (.write d) s) : (fill s).toNat < s.capacity.toNat := by
  rcases hkept with hclass | hclass
  · obtain ⟨-, h0⟩ := fillClass_eq_empty_iff.1 hclass
    rw [h0]
    exact hpos
  · obtain ⟨-, -, hlt⟩ := fillClass_eq_partialFill_iff.1 hclass
    exact hlt

theorem fill_bounds_of_contract {s : State} (hblock : ControlBlockOk s)
    (hkept : contractKept .read s) : 0 < (fill s).toNat ∧ (fill s).toNat ≤ s.capacity.toNat := by
  rcases hkept with hclass | hclass
  · obtain ⟨-, hpos, hlt⟩ := fillClass_eq_partialFill_iff.1 hclass
    exact ⟨hpos, hlt.le⟩
  · obtain ⟨hc, hfull⟩ := hblock.fillClass_eq_full_iff.1 hclass
    rw [hfull]
    exact ⟨hblock.capacity_pos hc, le_rfl⟩

/-- One WRITE or READ that keeps its contract: what was unread and what it writes are what it answers and what
is unread then, in this order (R118). -/
theorem transfer_keeps_order {i : Instr} {s : State} (h : Ready s) (hi : isTransfer i = true)
    (hkept : contractKept i s) :
    ∃ t r, exec i s = .next t ∧ t.responses = s.responses ++ [r] ∧ Ready t ∧
      unread s ++ writtenBytes [i] = readBytes [i] [r] ++ unread t := by
  have hblock := h.controlBlockOk
  obtain ⟨hinv, hc, hcov⟩ := id h
  obtain ⟨hwrite, hread, -⟩ := unreadBytesAreAQueue s hinv hc hcov
  cases i with
  | write d =>
    obtain ⟨t, hx, hqueue⟩ := hwrite d (fill_lt_capacity_of_contract (hblock.capacity_pos hc) hkept)
    obtain ⟨r, -, hr⟩ := exec_next_answersLegally hx
    exact ⟨t, r, hx, hr, h.exec_next rfl hx, hqueue.symm⟩
  | read =>
    obtain ⟨hpos, hle⟩ := fill_bounds_of_contract hblock hkept
    obtain ⟨b, q, t, hqueue, hx, hr, rfl⟩ := hread hpos hle
    refine ⟨t, _, hx, hr, h.exec_next rfl hx, ?_⟩
    rw [hqueue]
    simp [writtenBytes, readBytes, rspByte_setWidth]
  | _ => cases hi

/-- The same for a run of them, by induction on the commands. -/
theorem run_keeps_order (cmds : List Instr) {s : State} (h : Ready s)
    (hi : ∀ i ∈ cmds, isTransfer i = true) (hkept : contractRun cmds s) :
    ∃ t rs, runCommands cmds s = .next t ∧ t.responses = s.responses ++ rs ∧
      rs.length = cmds.length ∧
      unread s ++ writtenBytes cmds = readBytes cmds rs ++ unread t := by
  induction cmds generalizing s with
  | nil => exact ⟨s, [], rfl, by simp, rfl, by simp [writtenBytes, readBytes]⟩
  | cons i cmds ih =>
    obtain ⟨hi, his⟩ := List.forall_mem_cons.1 hi
    obtain ⟨hkept, hrest⟩ := hkept
    obtain ⟨u, r, hx, hr, hu, hone⟩ := transfer_keeps_order h hi hkept
    obtain ⟨t, rs, hrun, hrs, hlen, hmany⟩ := ih hu his (hrest u hx)
    refine ⟨t, r :: rs, (runCommands_cons hx cmds).trans hrun, ?_, by simp [hlen], ?_⟩
    · rw [hrs, hr, List.append_assoc, List.singleton_append]
    · rw [writtenBytes_cons, readBytes_cons, ← List.append_assoc, hone, List.append_assoc, hmany,
        List.append_assoc]

/-- Settles O49: with nothing unread at the start, all that is written is what is read, then what is unread
at the end. -/
theorem fifoOrder : Obligations.FifoOrder := by
  intro cmds s hinv hc hcov h0 hi hkept
  obtain ⟨t, rs, hrun, hrs, hlen, horder⟩ := run_keeps_order cmds ⟨hinv, hc, hcov⟩ hi hkept
  rw [unread_eq_nil (fill_eq_zero_iff.1 h0), List.nil_append] at horder
  exact ⟨t, rs, hrun, hrs, hlen, unread t, horder.symm⟩

/-! ### What WRITE, READ, PEEK and FREE answer and leave -/

section Answer

variable {s : State} (h : Ready s)
include h

/-- PEEK answers the byte at its offset (R92). -/
theorem Ready.exists_peek (o : Word) :
    ∃ t, exec (.peek o) s = .next t ∧ Ready t ∧
      t.responses = s.responses ++ [(byteAt s o.toNat).setWidth 32] := by
  have hx := exec_peek_inside h.configured (h.phys_lt_storageLen (add16 s.readCursor o))
  refine ⟨_, hx, h.exec_next rfl hx, ?_⟩
  rw [respond_responses, rspWord_ok_zext16, byteAt_toNat]
  rfl

/-- FREE answers the capacity less the fill count (R104). -/
theorem Ready.exists_free :
    ∃ t, exec .free s = .next t ∧ Ready t ∧ t.responses = s.responses ++ [(free s).setWidth 32] := by
  have hx := exec_free_configured h.configured
  exact ⟨_, hx, h.exec_next rfl hx, by rw [respond_responses, rspWord_ok]⟩

/-- READ answers the byte at offset 0 and moves every other byte one offset nearer (R91). -/
theorem Ready.exists_read :
    ∃ t, exec .read s = .next t ∧ Ready t ∧
      t.responses = s.responses ++ [(byteAt s 0).setWidth 32] ∧
      ∀ k, byteAt t k = byteAt s (k + 1) := by
  have hx := exec_read_inside h.configured (h.phys_lt_storageLen s.readCursor)
  refine ⟨_, hx, h.exec_next rfl hx, ?_, byteAt_advanceRead s⟩
  rw [respond_responses, rspWord_ok_zext16, byteAt_zero]
  rfl

/-- WRITE puts its byte at the offset of the fill count, full or not (R90, R114). -/
theorem Ready.exists_write (d : Byte) :
    ∃ t, exec (.write d) s = .next t ∧ Ready t ∧ byteAt t (fill s).toNat = d := by
  have hx := exec_write_inside (d := d) h.configured (h.phys_lt_storageLen s.writeCursor)
  refine ⟨_, hx, h.exec_next rfl hx, (byteAt_write s d _).trans ?_⟩
  rw [BitVec.ofNat_toNat, BitVec.setWidth_eq, writeIndex_eq_peekIndex_fill, if_pos rfl]

end Answer

/-! ### PEEK and the READs to come -/

/-- After `k` READs the byte that was at offset `k` is the oldest (R119). -/
theorem Ready.exists_reads {s : State} (h : Ready s) (k : Nat) :
    ∃ u, runCommands (List.replicate k .read) s = .next u ∧ Ready u ∧ byteAt u 0 = byteAt s k := by
  induction k generalizing s with
  | zero => exact ⟨s, rfl, h, rfl⟩
  | succ k ih =>
    obtain ⟨t, hx, ht, -, hshift⟩ := h.exists_read
    obtain ⟨u, hrun, hu, hbyte⟩ := ih ht
    exact ⟨u, (runCommands_cons hx _).trans hrun, hu, hbyte.trans (hshift k)⟩

/-- Settles O50: the byte at offset `k` is the oldest after `k` READs, and the fill count was the offset of the
byte just written. -/
theorem peekForetellsTheReads : Obligations.PeekForetellsTheReads := by
  intro s hinv hc hcov
  have h : Ready s := ⟨hinv, hc, hcov⟩
  refine ⟨fun k _ _ => ?_, fun d _ => ?_⟩
  · obtain ⟨t, hpeek, -, hanswer⟩ := h.exists_peek k
    obtain ⟨u, hrun, hu, hbyte⟩ := h.exists_reads k.toNat
    obtain ⟨v, hread, -, hv, -⟩ := hu.exists_read
    exact ⟨t, u, v, _, hpeek, hanswer, hrun, hread, hbyte ▸ hv⟩
  · obtain ⟨t, hwrite, ht, hbyte⟩ := h.exists_write d
    obtain ⟨u, hpeek, -, hanswer⟩ := ht.exists_peek (fill t - 1)
    have hnewest : fill t - 1 = fill s := by
      rw [write_next_fill hc hwrite, BitVec.add_sub_cancel]
    rw [hnewest, hbyte] at hanswer
    exact ⟨t, u, hwrite, hpeek, hanswer⟩

/-! ### Across the wrap -/

/-- One WRITE and one READ move each cursor by one, whatever the fill count (R124). -/
theorem Ready.exists_pair {s : State} (h : Ready s) (d : Byte) :
    ∃ t u, exec (.write d) s = .next t ∧ exec .read t = .next u ∧ Ready u ∧
      u.writeCursor = s.writeCursor + 1 ∧ u.readCursor = s.readCursor + 1 := by
  obtain ⟨t, hwrite, ht, -⟩ := h.exists_write d
  obtain ⟨u, hread, hu, -⟩ := ht.exists_read
  obtain ⟨-, -, hw, hr⟩ := write_next_configured h.configured hwrite
  obtain ⟨-, -, hw', hr'⟩ := read_next_configured ht.configured hread
  exact ⟨t, u, hwrite, hread, hu, hw'.trans hw, hr'.trans (congrArg inc16 hr)⟩

theorem add_one_add_ofNat (p : Word) (n : Nat) :
    p + 1 + BitVec.ofNat 16 n = p + BitVec.ofNat 16 (n + 1) := by
  rw [BitVec.ofNat_add, BitVec.add_assoc, BitVec.add_comm (BitVec.ofNat 16 n)]
  rfl

theorem Ready.exists_pairs {s : State} (h : Ready s) (ds : List Byte) :
    ∃ t, runCommands (writeReadPairs ds) s = .next t ∧
      t.writeCursor = s.writeCursor + BitVec.ofNat 16 ds.length ∧
      t.readCursor = s.readCursor + BitVec.ofNat 16 ds.length := by
  induction ds generalizing s with
  | nil => exact ⟨s, rfl, by simp, by simp⟩
  | cons d ds ih =>
    obtain ⟨t, u, hwrite, hread, hu, hw, hr⟩ := h.exists_pair d
    obtain ⟨v, hrun, hw', hr'⟩ := ih hu
    refine ⟨v, ?_, ?_, ?_⟩
    · rw [writeReadPairs, runCommands_cons hwrite, runCommands_cons hread, hrun]
    · rw [hw', hw, add_one_add_ofNat, List.length_cons]
    · rw [hr', hr, add_one_add_ofNat, List.length_cons]

/-- Settles O51: the pairs by induction; at 65534 the byte written is at offset 0, PEEK and FREE move nothing,
and two increments of 65534 are 0. -/
theorem wrapAroundScenario : Obligations.WrapAroundScenario := by
  intro s hinv hc hcov
  have h : Ready s := ⟨hinv, hc, hcov⟩
  refine ⟨h.exists_pairs, fun hw hr d e => ?_⟩
  have hfill : fill s = 0 := fill_eq_zero_iff.2 (hw.trans hr.symm)
  obtain ⟨t, hwrite, ht, hbyte⟩ := h.exists_write d
  obtain ⟨-, hcap, hwrite65535, -⟩ := write_next_configured hc hwrite
  have hfill1 : fill t = 1 := (write_next_fill hc hwrite).trans (congrArg (· + 1) hfill)
  obtain ⟨u, hpeek, hu, hanswer⟩ := ht.exists_peek 0
  have hpeeked := sameFillState_of_query hpeek rfl nofun nofun nofun
  obtain ⟨v, hfree, hv, hroom⟩ := hu.exists_free
  have hqueried := hpeeked.trans (sameFillState_of_query hfree rfl nofun nofun nofun)
  obtain ⟨w, hlast, -, -⟩ := hv.exists_write e
  obtain ⟨-, -, hwrite0, -⟩ := write_next_configured hv.configured hlast
  refine ⟨t, u, v, w, hwrite, hpeek, ?_, hfree, ?_, hlast, ?_, ?_⟩
  · have hoffset : (fill s).toNat = (0 : Word).toNat := congrArg BitVec.toNat hfill
    rw [hanswer, ← hoffset, hbyte]
  · have hfillu := hpeeked.fill_eq
    obtain ⟨-, hcap', -, -⟩ := hpeeked
    rw [hroom, free, hfillu, hfill1, hcap', hcap, sub16_eq]
  · obtain ⟨hcursor, -⟩ := hqueried.cursors
    rw [hwrite0, hcursor, hwrite65535, hw]
    rfl
  · rw [write_next_fill hv.configured hlast, hqueried.fill_eq, hfill1]
    rfl

end Sys2Proof
